-- ==== Sys2Proof/Word.lean ====
section
/-! DEFINITION. The value types of the GF16-LAU: words, bytes, field elements, groups-of-64 and fixed matrices. -/

namespace Sys2Proof

/-- A 64-bit value: an X register, a plane of a group, a control-register slot (00_scope.md R10). -/
abbrev Word := BitVec 64

/-- A byte of the host port window (20_memory.md R70). -/
abbrev Byte := BitVec 8

/-- A 32-bit command word, index-memory entry or command pointer (30_encoding.md R100). -/
abbrev Word32 := BitVec 32

/-- A field element: bit k is the coefficient of x^k (41_field.md R140). -/
abbrev Elem := BitVec 4

/-- A group-of-64: four 64-bit planes, plane p holding bit p of all 64 elements (00_scope.md R11). -/
structure Grp64 where
  b0 : Word
  b1 : Word
  b2 : Word
  b3 : Word
  deriving DecidableEq, Repr

/-- A fixed 64×64 matrix: 64 rows, each a group-of-64 (00_scope.md R12). -/
abbrev Mat64 := Vector Grp64 64

/-- `ONES` of 00_scope.md R10. -/
abbrev ones : Word := 0xFFFFFFFFFFFFFFFF#64

/-- `ZERO_G` of 00_scope.md R11. -/
def zeroGroup : Grp64 := ⟨0, 0, 0, 0⟩

/-- `ZERO_M` of 00_scope.md R12. -/
def zeroMatrix : Mat64 := Vector.replicate 64 zeroGroup

end Sys2Proof
end

