-- ==== Sys2Proof/Syntax.lean ====
section
/-! DEFINITION. The command set: one constructor per row of spec/opcode_table.json (30_encoding.md R108).

Operands stand in the order d, a, b, c of the syntax column. A register number is a `Fin` of its class's count, so an
instruction names only registers that exist (30_encoding.md R104). -/

namespace Sys2Proof

/-- An X register X0..X15 (10_state.md R31). -/
abbrev XReg := Fin 16

/-- A group register G0..G15 (10_state.md R33). -/
abbrev GReg := Fin 16

/-- A matrix register M0..M7 (10_state.md R34). -/
abbrev MReg := Fin 8

/-- A block descriptor B0..B3 (10_state.md R35). -/
abbrev BReg := Fin 4

/-- A command. Each constructor is a row of 30_encoding.md R108, its operands in field order. -/
inductive Instr where
  -- sequencer and X registers
  | nop
  | halt
  | xli (d : XReg) (imm16 : BitVec 16) (h : BitVec 2)
  | xins (d : XReg) (imm16 : BitVec 16) (h : BitVec 2)
  | xmov (d a : XReg)
  -- field
  | fadd (d a b : XReg)
  | fmul (d a b : XReg)
  | finv (d a : XReg)
  -- group
  | gzero (d : GReg)
  | gcopy (d a : GReg)
  | grand (d : GReg)
  | geq (d : XReg) (a b : GReg)
  | gzpos (d : XReg) (a : GReg)
  | gnzpos (d : XReg) (a : GReg)
  | gget (d : XReg) (a : GReg) (b : XReg)
  | gset (d : GReg) (a b : XReg)
  | gaddat (d : GReg) (a b : XReg)
  | gzsub (d : GReg) (a : XReg)
  | gzat (d : GReg) (a : XReg)
  | gmix (d a : GReg) (b : XReg)
  | gfnz (d : XReg) (a : GReg)
  | gadd (d a : GReg)
  | gscale (d a : GReg) (b : XReg)
  | gscalei (d a b : GReg) (c : XReg)
  | gfma (d a : GReg) (b : XReg)
  | gfmam (d a : GReg) (b c : XReg)
  | gfmai (d a b : GReg) (c : XReg)
  -- fixed matrix
  | mzero (d : MReg)
  | mident (d : MReg)
  | mrand (d : MReg)
  | mcopy (d a : MReg)
  | mswap (d : MReg) (a b : XReg)
  | mmul (d a b : MReg)
  | mgj (d : XReg) (a b : MReg)
  | msym (d : XReg) (a : MReg)
  | mgetr (d : GReg) (a : MReg) (b : XReg)
  | mputr (d : MReg) (a : XReg) (b : GReg)
  -- block matrix
  | bcfg (d : BReg) (a b : XReg)
  | bfree (d : BReg)
  | bgetr (d : GReg) (a : BReg) (b : XReg)
  | bputr (d : BReg) (a : XReg) (b : GReg)
  | bat (d : XReg) (a : BReg) (b c : XReg)
  | bsetat (d : BReg) (a b c : XReg)
  | bzero (d : BReg)
  | brand (d : BReg)
  | bcopy (d a : BReg)
  | bgram (d : MReg) (a : BReg)
  | bzcm (d : XReg) (a : BReg)
  | bnzcm (d : XReg) (a : BReg)
  | bzcms (d : XReg) (a : BReg) (b c : XReg)
  | bfma (d a : BReg) (b : MReg)
  | bfmad (d a : BReg) (b : MReg) (c : XReg)
  | bdfma (d a : BReg) (b : MReg) (c : XReg)
  | bmix (d a : BReg) (b : XReg)
  | badd (d a : BReg)
  deriving DecidableEq, Repr

end Sys2Proof
end

