-- ==== Sys2Proof/WellFormed.lean ====
section
/-! DEFINITION. Which command words are well formed: the operand classes, the must-be-zero bits of a row and the check
of a word against its row (30_encoding.md R101 to R107).

Well-formedness is a check on WORDS: the operands of `Instr` are typed by their class, so every `Instr` is well formed,
and what can be ill formed is a word (for example the one that would read "MZERO m8", R113). The table of rows itself
stands in Sys2Proof/Decode.lean. -/

namespace Sys2Proof

/-- The class of a 4-bit register field; `unused` is a field the opcode does not use (30_encoding.md R104, R105). -/
inductive FieldClass where
  | unused
  | xReg
  | gReg
  | mReg
  | bReg
  deriving DecidableEq, Repr

/-- The bits of a field that must be 0, by class (30_encoding.md R104; the whole field where it is unused, R105). -/
def FieldClass.mustBeZero : FieldClass → BitVec 4
  | .unused => 0b1111
  | .xReg => 0b0000
  | .gReg => 0b0000
  | .mReg => 0b1000
  | .bReg => 0b1100

/-- The format of a row, with the classes of its register fields (30_encoding.md R101 to R103, R108). -/
inductive Layout where
  /-- Format N: bits 23:0 must be 0 (30_encoding.md R101). -/
  | formatN
  /-- Format R: the classes of d, a, b and c; bits 7:0 must be 0 (30_encoding.md R102). -/
  | formatR (d a b c : FieldClass)
  /-- Format I: d is an X field; bits 19:18 must be 0 (30_encoding.md R103). -/
  | formatI
  deriving DecidableEq, Repr

/-- The must-be-zero bits of bits 23:0 of a word of this format (30_encoding.md R105). -/
def Layout.mustBeZero : Layout → BitVec 24
  | .formatN => 0xFFFFFF
  | .formatR d a b c =>
    (d.mustBeZero ++ a.mustBeZero ++ b.mustBeZero ++ c.mustBeZero ++ (0xFF : BitVec 8) : BitVec 24)
  | .formatI => (FieldClass.xReg.mustBeZero ++ (0b1100 : BitVec 4) ++ (0 : BitVec 16) : BitVec 24)

/-- A row of the opcode map (30_encoding.md R108). -/
structure Row where
  opcode : BitVec 8
  layout : Layout
  /-- The instruction a well-formed word of the row stands for: its fields read by class (30_encoding.md R107). -/
  build : Word32 → Instr

/-- The `mask` column: the opcode bits and every must-be-zero bit (30_encoding.md R105). -/
def Row.mask (r : Row) : Word32 := (0xFF : BitVec 8) ++ r.layout.mustBeZero

/-- The `match` column (30_encoding.md R108). -/
def Row.pattern (r : Row) : Word32 := r.opcode ++ (0 : BitVec 24)

/-- The offending bits of a word against its row, 0 where it is well formed (30_encoding.md R107). -/
def Row.offending (r : Row) (w : Word32) : Word32 := (w ^^^ r.pattern) &&& r.mask

/-- The word is well formed for this row: `(w & mask) = match` (30_encoding.md R107). -/
def Row.admits (r : Row) (w : Word32) : Bool := w &&& r.mask == r.pattern

end Sys2Proof
end

