-- ==== Sys2Proof/Decode.lean ====
section
/-! DEFINITION. The opcode map, the decoder (30_encoding.md R107, R108) and the encoder. -/

namespace Sys2Proof

/-- Field d, bits 23:20, as a register number of its class (30_encoding.md R102, R104). The class's must-be-zero bits
are checked before a field is read, so no bit of a legal field is dropped. -/
def fieldD {n : Nat} [NeZero n] (w : Word32) : Fin n := Fin.ofNat n (w.extractLsb' 20 4).toNat

/-- Field a, bits 19:16 (30_encoding.md R102). -/
def fieldA {n : Nat} [NeZero n] (w : Word32) : Fin n := Fin.ofNat n (w.extractLsb' 16 4).toNat

/-- Field b, bits 15:12 (30_encoding.md R102). -/
def fieldB {n : Nat} [NeZero n] (w : Word32) : Fin n := Fin.ofNat n (w.extractLsb' 12 4).toNat

/-- Field c, bits 11:8 (30_encoding.md R102). -/
def fieldC {n : Nat} [NeZero n] (w : Word32) : Fin n := Fin.ofNat n (w.extractLsb' 8 4).toNat

/-- Field imm16, bits 15:0 of format I (30_encoding.md R103). -/
def fieldImm (w : Word32) : BitVec 16 := w.extractLsb' 0 16

/-- Field h, bits 17:16 of format I (30_encoding.md R103). -/
def fieldH (w : Word32) : BitVec 2 := w.extractLsb' 16 2

/-- Sequencer and X-register rows, opcodes 0x00 to 0x04. (30_encoding.md R108). -/
def sequencerRows : List Row :=
  [⟨0x00, .formatN, fun _ => .nop⟩,
   ⟨0x01, .formatN, fun _ => .halt⟩,
   ⟨0x02, .formatI, fun w => .xli (fieldD w) (fieldImm w) (fieldH w)⟩,
   ⟨0x03, .formatI, fun w => .xins (fieldD w) (fieldImm w) (fieldH w)⟩,
   ⟨0x04, .formatR .xReg .xReg .unused .unused, fun w => .xmov (fieldD w) (fieldA w)⟩]

/-- Field rows, opcodes 0x10 to 0x12. (30_encoding.md R108). -/
def fieldRows : List Row :=
  [⟨0x10, .formatR .xReg .xReg .xReg .unused, fun w => .fadd (fieldD w) (fieldA w) (fieldB w)⟩,
   ⟨0x11, .formatR .xReg .xReg .xReg .unused, fun w => .fmul (fieldD w) (fieldA w) (fieldB w)⟩,
   ⟨0x12, .formatR .xReg .xReg .unused .unused, fun w => .finv (fieldD w) (fieldA w)⟩]

/-- Group rows, opcodes 0x20 to 0x32. (30_encoding.md R108). -/
def groupRows : List Row :=
  [⟨0x20, .formatR .gReg .unused .unused .unused, fun w => .gzero (fieldD w)⟩,
   ⟨0x21, .formatR .gReg .gReg .unused .unused, fun w => .gcopy (fieldD w) (fieldA w)⟩,
   ⟨0x22, .formatR .gReg .unused .unused .unused, fun w => .grand (fieldD w)⟩,
   ⟨0x23, .formatR .xReg .gReg .gReg .unused, fun w => .geq (fieldD w) (fieldA w) (fieldB w)⟩,
   ⟨0x24, .formatR .xReg .gReg .unused .unused, fun w => .gzpos (fieldD w) (fieldA w)⟩,
   ⟨0x25, .formatR .xReg .gReg .unused .unused, fun w => .gnzpos (fieldD w) (fieldA w)⟩,
   ⟨0x26, .formatR .xReg .gReg .xReg .unused, fun w => .gget (fieldD w) (fieldA w) (fieldB w)⟩,
   ⟨0x27, .formatR .gReg .xReg .xReg .unused, fun w => .gset (fieldD w) (fieldA w) (fieldB w)⟩,
   ⟨0x28, .formatR .gReg .xReg .xReg .unused, fun w => .gaddat (fieldD w) (fieldA w) (fieldB w)⟩,
   ⟨0x29, .formatR .gReg .xReg .unused .unused, fun w => .gzsub (fieldD w) (fieldA w)⟩,
   ⟨0x2A, .formatR .gReg .xReg .unused .unused, fun w => .gzat (fieldD w) (fieldA w)⟩,
   ⟨0x2B, .formatR .gReg .gReg .xReg .unused, fun w => .gmix (fieldD w) (fieldA w) (fieldB w)⟩,
   ⟨0x2C, .formatR .xReg .gReg .unused .unused, fun w => .gfnz (fieldD w) (fieldA w)⟩,
   ⟨0x2D, .formatR .gReg .gReg .unused .unused, fun w => .gadd (fieldD w) (fieldA w)⟩,
   ⟨0x2E, .formatR .gReg .gReg .xReg .unused, fun w => .gscale (fieldD w) (fieldA w) (fieldB w)⟩,
   ⟨0x2F, .formatR .gReg .gReg .gReg .xReg, fun w => .gscalei (fieldD w) (fieldA w) (fieldB w) (fieldC w)⟩,
   ⟨0x30, .formatR .gReg .gReg .xReg .unused, fun w => .gfma (fieldD w) (fieldA w) (fieldB w)⟩,
   ⟨0x31, .formatR .gReg .gReg .xReg .xReg, fun w => .gfmam (fieldD w) (fieldA w) (fieldB w) (fieldC w)⟩,
   ⟨0x32, .formatR .gReg .gReg .gReg .xReg, fun w => .gfmai (fieldD w) (fieldA w) (fieldB w) (fieldC w)⟩]

/-- Fixed-matrix rows, opcodes 0x40 to 0x49. (30_encoding.md R108). -/
def matrixRows : List Row :=
  [⟨0x40, .formatR .mReg .unused .unused .unused, fun w => .mzero (fieldD w)⟩,
   ⟨0x41, .formatR .mReg .unused .unused .unused, fun w => .mident (fieldD w)⟩,
   ⟨0x42, .formatR .mReg .unused .unused .unused, fun w => .mrand (fieldD w)⟩,
   ⟨0x43, .formatR .mReg .mReg .unused .unused, fun w => .mcopy (fieldD w) (fieldA w)⟩,
   ⟨0x44, .formatR .mReg .xReg .xReg .unused, fun w => .mswap (fieldD w) (fieldA w) (fieldB w)⟩,
   ⟨0x45, .formatR .mReg .mReg .mReg .unused, fun w => .mmul (fieldD w) (fieldA w) (fieldB w)⟩,
   ⟨0x46, .formatR .xReg .mReg .mReg .unused, fun w => .mgj (fieldD w) (fieldA w) (fieldB w)⟩,
   ⟨0x47, .formatR .xReg .mReg .unused .unused, fun w => .msym (fieldD w) (fieldA w)⟩,
   ⟨0x48, .formatR .gReg .mReg .xReg .unused, fun w => .mgetr (fieldD w) (fieldA w) (fieldB w)⟩,
   ⟨0x49, .formatR .mReg .xReg .gReg .unused, fun w => .mputr (fieldD w) (fieldA w) (fieldB w)⟩]

/-- Block-matrix rows, opcodes 0x50 to 0x61. (30_encoding.md R108). -/
def blockMatrixRows : List Row :=
  [⟨0x50, .formatR .bReg .xReg .xReg .unused, fun w => .bcfg (fieldD w) (fieldA w) (fieldB w)⟩,
   ⟨0x51, .formatR .bReg .unused .unused .unused, fun w => .bfree (fieldD w)⟩,
   ⟨0x52, .formatR .gReg .bReg .xReg .unused, fun w => .bgetr (fieldD w) (fieldA w) (fieldB w)⟩,
   ⟨0x53, .formatR .bReg .xReg .gReg .unused, fun w => .bputr (fieldD w) (fieldA w) (fieldB w)⟩,
   ⟨0x54, .formatR .xReg .bReg .xReg .xReg, fun w => .bat (fieldD w) (fieldA w) (fieldB w) (fieldC w)⟩,
   ⟨0x55, .formatR .bReg .xReg .xReg .xReg, fun w => .bsetat (fieldD w) (fieldA w) (fieldB w) (fieldC w)⟩,
   ⟨0x56, .formatR .bReg .unused .unused .unused, fun w => .bzero (fieldD w)⟩,
   ⟨0x57, .formatR .bReg .unused .unused .unused, fun w => .brand (fieldD w)⟩,
   ⟨0x58, .formatR .bReg .bReg .unused .unused, fun w => .bcopy (fieldD w) (fieldA w)⟩,
   ⟨0x59, .formatR .mReg .bReg .unused .unused, fun w => .bgram (fieldD w) (fieldA w)⟩,
   ⟨0x5A, .formatR .xReg .bReg .unused .unused, fun w => .bzcm (fieldD w) (fieldA w)⟩,
   ⟨0x5B, .formatR .xReg .bReg .unused .unused, fun w => .bnzcm (fieldD w) (fieldA w)⟩,
   ⟨0x5C, .formatR .xReg .bReg .xReg .xReg, fun w => .bzcms (fieldD w) (fieldA w) (fieldB w) (fieldC w)⟩,
   ⟨0x5D, .formatR .bReg .bReg .mReg .unused, fun w => .bfma (fieldD w) (fieldA w) (fieldB w)⟩,
   ⟨0x5E, .formatR .bReg .bReg .mReg .xReg, fun w => .bfmad (fieldD w) (fieldA w) (fieldB w) (fieldC w)⟩,
   ⟨0x5F, .formatR .bReg .bReg .mReg .xReg, fun w => .bdfma (fieldD w) (fieldA w) (fieldB w) (fieldC w)⟩,
   ⟨0x60, .formatR .bReg .bReg .xReg .unused, fun w => .bmix (fieldD w) (fieldA w) (fieldB w)⟩,
   ⟨0x61, .formatR .bReg .bReg .unused .unused, fun w => .badd (fieldD w) (fieldA w)⟩]

/-- The opcode map: one row per opcode (30_encoding.md R108). -/
def opcodeTable : List Row := sequencerRows ++ fieldRows ++ groupRows ++ matrixRows ++ blockMatrixRows

/-- The row of an opcode, if it is assigned (30_encoding.md R107, R109). -/
def rowOf (op : BitVec 8) : Option Row := opcodeTable.find? (fun r => r.opcode == op)

/-- The opcode of a word, bits 31:24 (30_encoding.md R101 to R103). -/
def opcodeOf (w : Word32) : BitVec 8 := w.extractLsb' 24 8

/-- A word is well formed: its opcode is assigned and its row admits it (30_encoding.md R107, R109). -/
def wellFormedWord (w : Word32) : Bool :=
  match rowOf (opcodeOf w) with
  | none => false
  | some r => r.admits w

/-- Why a word is no instruction (30_encoding.md R107). -/
inductive DecodeError where
  /-- Bits 31:24 are no opcode (ILLEGAL_OPCODE). -/
  | illegalOpcode (op : BitVec 8)
  /-- Must-be-zero bits are 1: the offending bits (RESERVED_FIELD). -/
  | reservedField (bits : Word32)
  deriving DecidableEq, Repr

/-- The decode procedure of 30_encoding.md R107. -/
def decode (w : Word32) : Except DecodeError Instr :=
  match rowOf (opcodeOf w) with
  | none => .error (.illegalOpcode (opcodeOf w))
  | some r => if r.admits w then .ok (r.build w) else .error (.reservedField (r.offending w))

/-- Why a list of bytes begins with no command. -/
inductive BytesError where
  /-- Fewer than four bytes: not a whole word. The sequencer fetches whole words (30_encoding.md R100), so a step never
  meets it. -/
  | truncated
  /-- A whole word that is no instruction. -/
  | notInstr (e : DecodeError)
  deriving DecidableEq, Repr

/-- Decode the first command of a list of bytes, in the byte order of 20_memory.md R74, and give the rest. -/
def decodeBytes : List Byte → Except BytesError (Instr × List Byte)
  | b0 :: b1 :: b2 :: b3 :: rest =>
    match decode (b3 ++ b2 ++ b1 ++ b0 : BitVec 32) with
    | .ok i => .ok (i, rest)
    | .error e => .error (.notInstr e)
  | _ => .error .truncated

/-- A register number as a 4-bit field (30_encoding.md R104). -/
def regField (n : Nat) : BitVec 4 := BitVec.ofNat 4 n

/-- A word of format N (30_encoding.md R101). -/
def encN (op : BitVec 8) : Word32 := op ++ (0 : BitVec 24)

/-- A word of format R (30_encoding.md R102); an unused field is 0 (R105). -/
def encR (op : BitVec 8) (d a b c : Nat) : Word32 :=
  op ++ regField d ++ regField a ++ regField b ++ regField c ++ (0 : BitVec 8)

/-- A word of format I (30_encoding.md R103). -/
def encI (op : BitVec 8) (d : Nat) (imm16 : BitVec 16) (h : BitVec 2) : Word32 :=
  op ++ regField d ++ (0 : BitVec 2) ++ h ++ imm16

/-- The word of an instruction (30_encoding.md R108). -/
def encode : Instr → Word32
  | .nop => encN 0x00
  | .halt => encN 0x01
  | .xli d imm16 h => encI 0x02 d imm16 h
  | .xins d imm16 h => encI 0x03 d imm16 h
  | .xmov d a => encR 0x04 d a 0 0
  | .fadd d a b => encR 0x10 d a b 0
  | .fmul d a b => encR 0x11 d a b 0
  | .finv d a => encR 0x12 d a 0 0
  | .gzero d => encR 0x20 d 0 0 0
  | .gcopy d a => encR 0x21 d a 0 0
  | .grand d => encR 0x22 d 0 0 0
  | .geq d a b => encR 0x23 d a b 0
  | .gzpos d a => encR 0x24 d a 0 0
  | .gnzpos d a => encR 0x25 d a 0 0
  | .gget d a b => encR 0x26 d a b 0
  | .gset d a b => encR 0x27 d a b 0
  | .gaddat d a b => encR 0x28 d a b 0
  | .gzsub d a => encR 0x29 d a 0 0
  | .gzat d a => encR 0x2A d a 0 0
  | .gmix d a b => encR 0x2B d a b 0
  | .gfnz d a => encR 0x2C d a 0 0
  | .gadd d a => encR 0x2D d a 0 0
  | .gscale d a b => encR 0x2E d a b 0
  | .gscalei d a b c => encR 0x2F d a b c
  | .gfma d a b => encR 0x30 d a b 0
  | .gfmam d a b c => encR 0x31 d a b c
  | .gfmai d a b c => encR 0x32 d a b c
  | .mzero d => encR 0x40 d 0 0 0
  | .mident d => encR 0x41 d 0 0 0
  | .mrand d => encR 0x42 d 0 0 0
  | .mcopy d a => encR 0x43 d a 0 0
  | .mswap d a b => encR 0x44 d a b 0
  | .mmul d a b => encR 0x45 d a b 0
  | .mgj d a b => encR 0x46 d a b 0
  | .msym d a => encR 0x47 d a 0 0
  | .mgetr d a b => encR 0x48 d a b 0
  | .mputr d a b => encR 0x49 d a b 0
  | .bcfg d a b => encR 0x50 d a b 0
  | .bfree d => encR 0x51 d 0 0 0
  | .bgetr d a b => encR 0x52 d a b 0
  | .bputr d a b => encR 0x53 d a b 0
  | .bat d a b c => encR 0x54 d a b c
  | .bsetat d a b c => encR 0x55 d a b c
  | .bzero d => encR 0x56 d 0 0 0
  | .brand d => encR 0x57 d 0 0 0
  | .bcopy d a => encR 0x58 d a 0 0
  | .bgram d a => encR 0x59 d a 0 0
  | .bzcm d a => encR 0x5A d a 0 0
  | .bnzcm d a => encR 0x5B d a 0 0
  | .bzcms d a b c => encR 0x5C d a b c
  | .bfma d a b => encR 0x5D d a b 0
  | .bfmad d a b c => encR 0x5E d a b c
  | .bdfma d a b c => encR 0x5F d a b c
  | .bmix d a b => encR 0x60 d a b 0
  | .badd d a => encR 0x61 d a 0 0

/-- The four bytes of a word as the hardware stores them, lowest address first (20_memory.md R74). -/
def wordBytes (w : Word32) : List Byte :=
  [w.extractLsb' 0 8, w.extractLsb' 8 8, w.extractLsb' 16 8, w.extractLsb' 24 8]

/-- The instruction the decoder reads from the bits `w` of an opcode-table row, laid out as the hardware stores them;
bits above `nbits` are 0. -/
def decodeTableWord (nbits w : Nat) : Option Instr :=
  match decodeBytes (wordBytes (BitVec.ofNat 32 (w % 2 ^ nbits))) with
  | .ok (i, _) => some i
  | .error _ => none

end Sys2Proof
end

