-- ==== Sys2Proof/Config.lean ====
section
/-! DEFINITION. What an implementation fixes, the address map's constants, and the free values. -/

namespace Sys2Proof

/-- The parameters of 00_scope.md R7, with the legal ranges it gives. They never change while a machine runs
(notes/assumptions/4.md). `legal` is a proof, so an illegal configuration cannot be written down. -/
structure Params where
  rowmemRows : Nat
  idxEntries : Nat
  cmdWords : Nat
  legal : (1 ≤ rowmemRows ∧ rowmemRows ≤ 2 ^ 19) ∧ (1 ≤ idxEntries ∧ idxEntries ≤ 16384) ∧
    (1 ≤ cmdWords ∧ cmdWords ≤ 16384)
  deriving DecidableEq, Repr

/-- The default parameter values (00_scope.md R7). -/
def Config.defaultParams : Params :=
  { rowmemRows := 65536, idxEntries := 4096, cmdWords := 4096, legal := by decide }

/-- The draw number `n` from ENTROPY, 256 bits under no law (42_group.md R163, 92_eei_decisions.md D35): a free
value (notes/assumptions/3.md). -/
opaque Config.entropy : Nat → BitVec 256

/-- `gf_inv(0)`, which 41_field.md R142 leaves undefined and which no command uses: a free value
(notes/assumptions/10.md). -/
opaque Config.gfInvOfZero : Elem

/-- UNIT_BASE, the bus address of the window (00_scope.md R7, 92_eei_decisions.md D34, OPEN): a free value. Nothing in
the unit depends on it (notes/assumptions/11.md). -/
opaque Config.unitBase : Nat

/-- The host bus address of a window offset (20_memory.md R72): accesses of the model are given by offset. -/
def Config.busAddress (offset : Nat) : Nat := Config.unitBase + offset

/-- The value of the ID register: "GF16" and command-set revision 1 (10_state.md R38). -/
abbrev Config.idRegister : Word := 0x0000000136314647#64

/-- What a memory byte that nothing has written reads as. DESIGN CHOICE, unsafe: 10_state.md R54 leaves it a draw
(notes/assumptions/2.md). -/
def Config.unwrittenByte : Byte := 0

/-- The size of the host port window in bytes (00_scope.md R6). -/
abbrev Config.windowBytes : Nat := 0x2000000

/-- The window offset of command word 0 (20_memory.md R72). -/
abbrev Config.cmdBase : Nat := 0x20000

/-- The window offset of index entry 0 (20_memory.md R72). -/
abbrev Config.idxBase : Nat := 0x30000

/-- The window offset of row-memory row 0 (20_memory.md R72). -/
abbrev Config.rowBase : Nat := 0x1000000

end Sys2Proof
end

