-- ==== Sys2Proof/Machine/Arith.lean ====
section
/-! DEFINITION. The arithmetic of the unit: GF(16) (41_field.md), groups-of-64 (42_group.md section 1) and matrices
(43_matrix.md section 1, the elimination of R227, 44_block.md sections 4 and 5). -/

namespace Sys2Proof.Machine

/-! ### Bits -/

/-- `bit(i)` of 00_scope.md R10. -/
def bit (i : Nat) : Word := 1#64 <<< i

/-- A word with bit i set to v. -/
def setBit (w : Word) (i : Nat) (v : Bool) : Word := if v then w ||| bit i else w &&& ~~~(bit i)

/-- `lowest_set(v)`: the smallest set bit, `none` where v = 0 (00_scope.md R10). -/
def lowestSet (v : Word) : Option Nat := (List.range 64).find? (fun i => v.getLsbD i)

/-! ### The field GF(16) -/

/-- `gf_add` (41_field.md R140). -/
def gfAdd (a b : Elem) : Elem := a ^^^ b

/-- The 7-bit carry-less product of 41_field.md R141: shift and XOR over the four bits of b. -/
def clMul (a b : Elem) : BitVec 7 :=
  (List.range 4).foldl (fun p k => if b.getLsbD k then p ^^^ (a.setWidth 7 <<< k) else p) 0

/-- The reduction of 41_field.md R141: test bits 6, 5, 4 from high to low and XOR in the aligned polynomial. -/
def gfReduce (p : BitVec 7) : Elem :=
  ([6, 5, 4].foldl (fun p t => if p.getLsbD t then p ^^^ (0b10011#7 <<< (t - 4)) else p) p).setWidth 4

/-- `gf_mul` (41_field.md R141). -/
def gfMul (a b : Elem) : Elem :=
  if a = 0 ∨ b = 0 then 0
  else if a = 1 then b
  else if b = 1 then a
  else gfReduce (clMul a b)

/-- The inverse table of 41_field.md R142, for the elements 1 to 15 in order. -/
def gfInvTable : List Elem := [1, 9, 14, 13, 11, 7, 6, 15, 2, 12, 5, 10, 4, 3, 8]

/-- `gf_inv` (41_field.md R142). At 0, where it is not defined, the free value (notes/assumptions/10.md). -/
def gfInv (a : Elem) : Elem :=
  match a.toNat with
  | 0 => Config.gfInvOfZero
  | k + 1 => gfInvTable.getD k 0

/-! ### Groups-of-64 -/

/-- Plane p of a group (00_scope.md R11). -/
def plane (g : Grp64) (p : Fin 4) : Word :=
  match p with
  | 0 => g.b0
  | 1 => g.b1
  | 2 => g.b2
  | 3 => g.b3

/-- A group with plane p replaced. -/
def setPlane (g : Grp64) (p : Fin 4) (v : Word) : Grp64 :=
  match p with
  | 0 => { g with b0 := v }
  | 1 => { g with b1 := v }
  | 2 => { g with b2 := v }
  | 3 => { g with b3 := v }

/-- `lane(g, i)`: bit i of the planes, b0 the least significant (00_scope.md R11). -/
def lane (g : Grp64) (i : Nat) : Elem :=
  BitVec.ofBool (g.b3.getLsbD i) ++ BitVec.ofBool (g.b2.getLsbD i) ++ BitVec.ofBool (g.b1.getLsbD i) ++
    BitVec.ofBool (g.b0.getLsbD i)

/-- A group with lane i set to v: every other bit unchanged (42_group.md R170). -/
def setLane (g : Grp64) (i : Nat) (v : Elem) : Grp64 where
  b0 := setBit g.b0 i (v.getLsbD 0)
  b1 := setBit g.b1 i (v.getLsbD 1)
  b2 := setBit g.b2 i (v.getLsbD 2)
  b3 := setBit g.b3 i (v.getLsbD 3)

/-- Planewise XOR: lanewise field addition (42_group.md R176). -/
def gxor (g h : Grp64) : Grp64 := ⟨g.b0 ^^^ h.b0, g.b1 ^^^ h.b1, g.b2 ^^^ h.b2, g.b3 ^^^ h.b3⟩

/-- Every plane ANDed with a mask (42_group.md R172). -/
def gmask (g : Grp64) (m : Word) : Grp64 := ⟨g.b0 &&& m, g.b1 &&& m, g.b2 &&& m, g.b3 &&& m⟩

/-- `(dst & m) ^ (src & ~m)` per plane (42_group.md R174). -/
def gmix (dst src : Grp64) (m : Word) : Grp64 := gxor (gmask dst m) (gmask src (~~~m))

/-- `nzpos` (42_group.md R161). -/
def nzpos (g : Grp64) : Word := g.b0 ||| g.b1 ||| g.b2 ||| g.b3

/-- `zpos` (42_group.md R161). -/
def zpos (g : Grp64) : Word := ~~~(nzpos g)

/-- A plane where bit j of c is 1, else 0: one term of the raw planes of 42_group.md R160. -/
def planeIf (c : Elem) (j : Nat) (w : Word) : Word := if c.getLsbD j then w else 0

/-- `scale(g, c)` by the plane equations of 42_group.md R160: the raw planes r0..r6, folded by x⁴ = x + 1. -/
def scale (g : Grp64) (c : Elem) : Grp64 :=
  let r0 := planeIf c 0 g.b0
  let r1 := planeIf c 0 g.b1 ^^^ planeIf c 1 g.b0
  let r2 := planeIf c 0 g.b2 ^^^ planeIf c 1 g.b1 ^^^ planeIf c 2 g.b0
  let r3 := planeIf c 0 g.b3 ^^^ planeIf c 1 g.b2 ^^^ planeIf c 2 g.b1 ^^^ planeIf c 3 g.b0
  let r4 := planeIf c 1 g.b3 ^^^ planeIf c 2 g.b2 ^^^ planeIf c 3 g.b1
  let r5 := planeIf c 2 g.b3 ^^^ planeIf c 3 g.b2
  let r6 := planeIf c 3 g.b3
  ⟨r0 ^^^ r4, r1 ^^^ r4 ^^^ r5, r2 ^^^ r5 ^^^ r6, r3 ^^^ r6⟩

/-- The 256 bits of a draw as a group: plane p is bits 64·p+63 to 64·p (00_scope.md R13). -/
def groupOfBits (v : BitVec 256) : Grp64 :=
  ⟨v.extractLsb' 0 64, v.extractLsb' 64 64, v.extractLsb' 128 64, v.extractLsb' 192 64⟩

/-- `draw256()`, the draw number n (00_scope.md R13, 42_group.md R163). -/
def draw256 (n : Nat) : Grp64 := groupOfBits (Config.entropy n)

/-! ### Fixed matrices -/

/-- The entry in row r and column c (00_scope.md R12). -/
def entry (m : Mat64) (r c : Fin 64) : Elem := lane m[r] c.val

/-- The matrix whose row r is f r. -/
def matrixOf (f : Fin 64 → Grp64) : Mat64 := Vector.ofFn f

/-- `IDENT` (00_scope.md R12; in planes, 43_matrix.md R222). -/
def identMatrix : Mat64 := matrixOf fun r => ⟨bit r.val, 0, 0, 0⟩

/-- XOR over k in 0..63 of the groups f k. -/
def gxorSum (f : Fin 64 → Grp64) : Grp64 := (List.finRange 64).foldl (fun acc k => gxor acc (f k)) zeroGroup

/-- One row of a product: XOR over k of `scale(b.row[k], lane(v, k))` (43_matrix.md R220; `prod` of 44_block.md
section 5). -/
def rowMul (v : Grp64) (b : Mat64) : Grp64 := gxorSum fun k => scale b[k] (lane v k.val)

/-- `mmul(a, b)` in its row form (43_matrix.md R220). -/
def mmul (a b : Mat64) : Mat64 := matrixOf fun r => rowMul a[r] b

/-- A matrix with rows p and q swapped (43_matrix.md R225). -/
def swapRows (m : Mat64) (p q : Fin 64) : Mat64 := (m.set p m[q]).set q m[p]

/-- `m[i][j] = m[j][i]` for all i < j (43_matrix.md R229). -/
def isSymmetric (m : Mat64) : Bool :=
  (List.finRange 64).all fun i => (List.finRange 64).all fun j => !decide (i < j) || entry m i j == entry m j i

/-! ### Gauss-Jordan elimination -/

/-- What the elimination carries: the matrix, its companion and the mask (43_matrix.md R227). -/
structure Elim where
  m : Mat64
  c : Mat64
  mask : Word
  deriving DecidableEq, Repr

/-- The pivot row of column i: the smallest r ≥ i with a nonzero entry (43_matrix.md R227; the scan starts at row i,
90_conflicts.md C1). -/
def findPivot (m : Mat64) (i : Fin 64) : Option (Fin 64) :=
  (List.finRange 64).find? fun r => decide (i ≤ r) && entry m r i != 0

/-- Clear column i in every row but p: row j of `m` gets `m[j] ^ scale(pivot, mj[i])`, row p the normalised pivot. The
multiplier is read from `coeff`, the matrix before any row is changed (43_matrix.md R227). -/
def eliminate (coeff m : Mat64) (i p : Fin 64) (pivot : Grp64) : Mat64 :=
  matrixOf fun j => if j = p then pivot else gxor m[j] (scale pivot (entry coeff j i))

/-- Pivot step i of 43_matrix.md R227: find, normalise, eliminate above and below, swap into row i. -/
def pivotStep (t : Elim) (i : Fin 64) : Elim :=
  match findPivot t.m i with
  | none => t
  | some p =>
    let s := gfInv (entry t.m p i)
    { m := swapRows (eliminate t.m t.m i p (scale t.m[p] s)) p i
      c := swapRows (eliminate t.m t.c i p (scale t.c[p] s)) p i
      mask := t.mask ||| bit i.val }

/-- The 64 pivot steps of 43_matrix.md R227, on the matrix m and the companion c. -/
def gaussJordan (m c : Mat64) : Elim := (List.finRange 64).foldl pivotStep { m := m, c := c, mask := 0 }

/-! ### Block rows -/

/-- The Gramian of a list of rows: `out.row[i]` is the XOR over the rows v of `scale(v, lane(v, i))`, from zero
(44_block.md R271, 90_conflicts.md C5). -/
def gramian (rows : List Grp64) : Mat64 :=
  rows.foldl (fun out v => matrixOf fun i => gxor out[i] (scale v (lane v i.val))) zeroMatrix

/-- The columns that are zero in every row of a list: the AND of `zpos`, ONES for no row (44_block.md R272, R275). -/
def zeroColumns (rows : List Grp64) : Word := rows.foldl (fun z v => z &&& zpos v) ones

end Sys2Proof.Machine
end

