-- ==== Sys2Proof/Machine/State.lean ====
section
/-! DEFINITION. The machine's state as plain data, its outcomes, and the state after reset.

The three memories of 20_memory.md R70 are windows of the host port window, so they are one list of (window offset,
byte) pairs; the registers are not in it. -/

namespace Sys2Proof.Machine

/-- A block descriptor (10_state.md R35). -/
structure Desc where
  valid : Bool
  base : BitVec 32
  rnum : BitVec 31
  deriving DecidableEq, Repr

/-- An invalid descriptor with every field 0: what reset, BFREE and a failed BCFG leave (10_state.md R35,
44_block.md R260, R261). -/
def emptyDesc : Desc := { valid := false, base := 0, rnum := 0 }

/-- The STATUS bits 0 to 4 (10_state.md R41). Every other bit is reserved, reads 0 and ignores writes. -/
structure Status where
  busy : Bool
  done : Bool
  fault : Bool
  allocfail : Bool
  herr : Bool
  deriving DecidableEq, Repr

/-- The IRQ_EN bits 1 to 4 (10_state.md R42). Every other bit is reserved. -/
structure IrqEn where
  done : Bool
  fault : Bool
  allocfail : Bool
  herr : Bool
  deriving DecidableEq, Repr

/-- Bytes by window offset (20_memory.md R70, R72), in the canonical form of Sys2Proof/Machine/Ops.lean. -/
abbrev Memory := List Host.Cell

/-- One access of the host on the host port, by window offset and width in bytes (20_memory.md R73). A 4-byte write
moves the low 32 bits of `value`. -/
inductive HostAccess where
  | read (offset width : Nat)
  | write (offset width : Nat) (value : Word)
  deriving DecidableEq, Repr

/-- What a reset draws for the content the spec does not fix (10_state.md R54): G, M and bytes of the memories. -/
structure ResetDraw where
  g : Vector Grp64 16
  m : Vector Mat64 8
  cells : List Host.Cell
  deriving DecidableEq, Repr

/-- Who moves next (10_state.md R30; notes/assumptions/6.md): the host with one access, the RESET input with its draw,
or the sequencer. -/
inductive Input where
  | host (access : HostAccess)
  | reset (draw : ResetDraw)
  | sequencer
  deriving DecidableEq, Repr

/-- The state of the unit (10_state.md R31 to R50), its parameters (00_scope.md R7), and the model's own three fields.
ID, CTRL and BD0..BD3 hold no bits of their own: ID is constant, CTRL reads 0, BDn is computed from `b`. -/
structure State where
  /-- ROWMEM_ROWS, IDX_ENTRIES and CMD_WORDS, constant; what PARAM reports (10_state.md R39). -/
  params : Params
  /-- X0..X15 (10_state.md R31). -/
  x : Vector Word 16
  /-- G0..G15 (10_state.md R33). -/
  g : Vector Grp64 16
  /-- M0..M7 (10_state.md R34). -/
  m : Vector Mat64 8
  /-- B0..B3 (10_state.md R35). -/
  b : Vector Desc 4
  /-- CPC (10_state.md R37, R43). -/
  cpc : BitVec 32
  /-- STATUS (10_state.md R41). -/
  status : Status
  /-- IRQ_EN (10_state.md R42). -/
  irqEn : IrqEn
  /-- FAULT_CODE (10_state.md R44). -/
  faultCode : BitVec 8
  /-- FAULT_PC (10_state.md R45). -/
  faultPc : BitVec 32
  /-- FAULT_INSN (10_state.md R46). -/
  faultInsn : BitVec 32
  /-- FAULT_INFO (10_state.md R47). -/
  faultInfo : Word
  /-- RETIRED (10_state.md R48). -/
  retired : Word
  /-- CMDMEM, IDXMEM and ROWMEM (10_state.md R50). -/
  mem : Memory
  /-- The model's own: how many ENTROPY draws have been taken (notes/assumptions/3.md). -/
  draws : Nat
  /-- The model's own: the coming turns of the agents (notes/assumptions/6.md). -/
  inputs : List Input
  /-- The model's own: what the last host read returned (notes/assumptions/7.md). -/
  readData : Word
  deriving DecidableEq, Repr

/-- Where the model stops. The spec has no stop of its own: every fault of 60_exceptions.md R340 is a next state. -/
inductive Fault where
  /-- A command that names a block matrix found its valid descriptor running past ROWMEM, so that it names rows that do
  not exist (20_memory.md R70). Raised by the block commands; safe: 10_state.md R36 says no reachable state has such a
  descriptor (notes/assumptions/8.md). -/
  | rowOutsideMemory
  deriving DecidableEq, Repr

/-- Why the model has no answer. -/
inductive Refusal where
  /-- The instruction has no meaning yet. Raised by no arm of this model; safe. -/
  | notModelled (mnemonic : String)
  deriving DecidableEq, Repr

/-- The outcome of a meaning or of a step. -/
abbrev Result := Host.Outcome State Fault Refusal

/-- The machine right after reset (10_state.md R53), with the default parameters of 00_scope.md R7. G and M, which R54
leaves a draw, are 0 (DESIGN CHOICE, notes/assumptions/1.md); no memory byte is listed (notes/assumptions/2.md). -/
def State.reset : State where
  params := Config.defaultParams
  x := Vector.replicate 16 0
  g := Vector.replicate 16 zeroGroup
  m := Vector.replicate 8 zeroMatrix
  b := Vector.replicate 4 emptyDesc
  cpc := 0
  status := { busy := false, done := false, fault := false, allocfail := false, herr := false }
  irqEn := { done := false, fault := false, allocfail := false, herr := false }
  faultCode := 0
  faultPc := 0
  faultInsn := 0
  faultInfo := 0
  retired := 0
  mem := []
  draws := 0
  inputs := []
  readData := 0

end Sys2Proof.Machine
end

