-- ==== Sys2Proof/Machine/Flags.lean ====
section
/-! DEFINITION. The status flags. The unit has no condition codes (10_state.md R51); its flags are the STATUS bits
(R41), their enables (R42) and the IRQ output (60_exceptions.md R348). -/

namespace Sys2Proof.Machine

/-- STATUS as the host reads it (10_state.md R41). -/
def statusWord (t : Status) : Word :=
  (0 : BitVec 59) ++ BitVec.ofBool t.herr ++ BitVec.ofBool t.allocfail ++ BitVec.ofBool t.fault ++
    BitVec.ofBool t.done ++ BitVec.ofBool t.busy

/-- A host write to STATUS: clears each of bits 1 to 4 whose written bit is 1; bit 0 cannot be written
(10_state.md R41). -/
def clearStatus (t : Status) (v : Word) : Status where
  busy := t.busy
  done := t.done && !v.getLsbD 1
  fault := t.fault && !v.getLsbD 2
  allocfail := t.allocfail && !v.getLsbD 3
  herr := t.herr && !v.getLsbD 4

/-- IRQ_EN as the host reads it (10_state.md R42). -/
def irqEnWord (e : IrqEn) : Word :=
  (0 : BitVec 59) ++ BitVec.ofBool e.herr ++ BitVec.ofBool e.allocfail ++ BitVec.ofBool e.fault ++
    BitVec.ofBool e.done ++ (0 : BitVec 1)

/-- The enables a written value gives: reserved bits are ignored (10_state.md R42). -/
def irqEnOfWord (v : Word) : IrqEn where
  done := v.getLsbD 1
  fault := v.getLsbD 2
  allocfail := v.getLsbD 3
  herr := v.getLsbD 4

/-- The IRQ output: the OR of (STATUS bit and its enable) over DONE, FAULT, ALLOCFAIL and HERR (60_exceptions.md
R348). -/
def irqOutput (s : State) : Bool :=
  (s.status.done && s.irqEn.done) || (s.status.fault && s.irqEn.fault) ||
    (s.status.allocfail && s.irqEn.allocfail) || (s.status.herr && s.irqEn.herr)

/-- STATUS.HERR <- 1: a rejected host access (60_exceptions.md R347). -/
def setHerr (s : State) : State := { s with status := { s.status with herr := true } }

/-- STATUS.ALLOCFAIL <- 1: a BCFG that fails (44_block.md R260). -/
def setAllocfail (s : State) : State := { s with status := { s.status with allocfail := true } }

/-- STATUS.BUSY <- 0 and STATUS.DONE <- 1: HALT completing (45_sequencer.md R323). -/
def setHalted (s : State) : State := { s with status := { s.status with busy := false, done := true } }

/-- STATUS.BUSY <- 0 and STATUS.FAULT <- 1: a fault (60_exceptions.md R342). -/
def setFaulted (s : State) : State := { s with status := { s.status with busy := false, fault := true } }

/-- STATUS.DONE <- 0 and STATUS.BUSY <- 1: a GO that starts a run (45_sequencer.md R321). -/
def setRunning (s : State) : State := { s with status := { s.status with busy := true, done := false } }

end Sys2Proof.Machine
end

