-- ==== Sys2Proof/Machine/Ops.lean ====
section
/-! DEFINITION. The named operations over memory and registers, entropy draws, fault entry and return, and the shape
every command has: its checks, then all its effects at once (45_sequencer.md R320, 00_scope.md R14, R15). -/

namespace Sys2Proof.Machine

/-! ### Memory: one canonical list of bytes by window offset -/

/-- A window offset where a memory byte exists: in CMDMEM, IDXMEM or ROWMEM as sized by the parameters
(20_memory.md R70, R72). -/
def mappedByte (P : Params) (a : Nat) : Bool :=
  (Config.cmdBase ≤ a && a < Config.cmdBase + 4 * P.cmdWords) ||
  (Config.idxBase ≤ a && a < Config.idxBase + 4 * P.idxEntries) ||
  (Config.rowBase ≤ a && a < Config.rowBase + 32 * P.rowmemRows)

/-- Every byte of the list lies at or above `lo`, strictly rising, and none equals an unlisted byte's value. -/
def memSorted (lo : Nat) : Memory → Bool
  | [] => true
  | (a, v) :: rest => decide (lo ≤ a) && v != Config.unwrittenByte && memSorted (a + 1) rest

/-- The canonical form: addresses strictly rising, no entry equal to what an unlisted address reads as. -/
def memWf (m : Memory) : Bool := memSorted 0 m

/-- Every listed byte exists (20_memory.md R70). -/
def memMapped (P : Params) (m : Memory) : Bool := m.all fun cell => mappedByte P cell.1

/-- The byte at a window offset; an unlisted one reads as `Config.unwrittenByte` (notes/assumptions/2.md). -/
def memByte (m : Memory) (a : Nat) : Byte :=
  match m with
  | [] => Config.unwrittenByte
  | (k, v) :: rest => if k = a then v else memByte rest a

/-- Write one byte, keeping the canonical form: writing what an unlisted address reads as removes the entry. -/
def memPut (m : Memory) (a : Nat) (v : Byte) : Memory :=
  match m with
  | [] => if v = Config.unwrittenByte then [] else [(a, v)]
  | (k, w) :: rest =>
    if k < a then (k, w) :: memPut rest a v
    else if k = a then (if v = Config.unwrittenByte then rest else (a, v) :: rest)
    else (if v = Config.unwrittenByte then (k, w) :: rest else (a, v) :: (k, w) :: rest)

/-- A 32-bit location, little-endian (20_memory.md R74). -/
def memLoad32 (m : Memory) (a : Nat) : Word32 :=
  memByte m (a + 3) ++ memByte m (a + 2) ++ memByte m (a + 1) ++ memByte m a

/-- A 64-bit slot: location +0 in bits 31:0, +4 in bits 63:32 (20_memory.md R74). -/
def memLoad64 (m : Memory) (a : Nat) : Word := memLoad32 m (a + 4) ++ memLoad32 m a

/-- Store a 32-bit location, little-endian (20_memory.md R74). -/
def memStore32 (m : Memory) (a : Nat) (v : Word32) : Memory :=
  memPut (memPut (memPut (memPut m a (v.extractLsb' 0 8)) (a + 1) (v.extractLsb' 8 8)) (a + 2) (v.extractLsb' 16 8))
    (a + 3) (v.extractLsb' 24 8)

/-- Store a 64-bit slot (20_memory.md R74). -/
def memStore64 (m : Memory) (a : Nat) (v : Word) : Memory :=
  memStore32 (memStore32 m a (v.extractLsb' 0 32)) (a + 4) (v.extractLsb' 32 32)

/-- The window offset of command word k (20_memory.md R72). -/
def cmdOffset (k : Nat) : Nat := Config.cmdBase + 4 * k

/-- The window offset of index entry k (20_memory.md R72). -/
def idxOffset (k : Nat) : Nat := Config.idxBase + 4 * k

/-- The window offset of row-memory row r (20_memory.md R72). -/
def rowOffset (r : Nat) : Nat := Config.rowBase + 32 * r

/-- `CmdRead(k)` (00_scope.md R13). -/
def cmdRead (s : State) (k : Nat) : Word32 := memLoad32 s.mem (cmdOffset k)

/-- `IdxRead(k)` (00_scope.md R13). -/
def idxRead (s : State) (k : Nat) : Word32 := memLoad32 s.mem (idxOffset k)

/-- `RowRead(r)`: plane p is bytes 8·p to 8·p+7 of the row (00_scope.md R13, 20_memory.md R71). -/
def rowLoad (m : Memory) (r : Nat) : Grp64 :=
  ⟨memLoad64 m (rowOffset r), memLoad64 m (rowOffset r + 8), memLoad64 m (rowOffset r + 16),
    memLoad64 m (rowOffset r + 24)⟩

/-- `RowWrite(r, g)` (00_scope.md R13, 20_memory.md R71). -/
def rowStore (m : Memory) (r : Nat) (g : Grp64) : Memory :=
  memStore64 (memStore64 (memStore64 (memStore64 m (rowOffset r) g.b0) (rowOffset r + 8) g.b1) (rowOffset r + 16) g.b2)
    (rowOffset r + 24) g.b3

/-- Write consecutive rows, the first at row r. -/
def rowsStore (m : Memory) (r : Nat) : List Grp64 → Memory
  | [] => m
  | g :: rest => rowsStore (rowStore m r g) (r + 1) rest

/-- Read n consecutive rows, the first at row r. -/
def rowsLoad (m : Memory) (r n : Nat) : List Grp64 := (List.range n).map fun k => rowLoad m (r + k)

/-- The memory a reset draw gives: its cells that exist, written in order into an empty memory (10_state.md R54). -/
def drawMemory (P : Params) (cells : List Host.Cell) : Memory :=
  cells.foldl (fun m c => if mappedByte P c.1 then memPut m c.1 c.2 else m) []

/-! ### Registers -/

/-- `X[i]` (00_scope.md R13). -/
def getX (s : State) (i : XReg) : Word := s.x[i]

/-- `X[i] <- v` (00_scope.md R13). -/
def setX (s : State) (i : XReg) (v : Word) : State := { s with x := s.x.set i v }

/-- `G[i]` (00_scope.md R13). -/
def getG (s : State) (i : GReg) : Grp64 := s.g[i]

/-- `G[i] <- g` (00_scope.md R13). -/
def setG (s : State) (i : GReg) (v : Grp64) : State := { s with g := s.g.set i v }

/-- `M[i]` (00_scope.md R13). -/
def getM (s : State) (i : MReg) : Mat64 := s.m[i]

/-- `M[i] <- m` (00_scope.md R13). -/
def setM (s : State) (i : MReg) (v : Mat64) : State := { s with m := s.m.set i v }

/-- `B[i]` (00_scope.md R13). -/
def getB (s : State) (i : BReg) : Desc := s.b[i]

/-- Write descriptor i: only BCFG and BFREE do (10_state.md R35). -/
def setB (s : State) (i : BReg) (v : Desc) : State := { s with b := s.b.set i v }

/-- BDn, the host's view of a descriptor: base, rnum, valid (10_state.md R49). -/
def descWord (d : Desc) : Word := BitVec.ofBool d.valid ++ d.rnum ++ d.base

/-! ### Block matrices -/

/-- `BRow(i, r)` (00_scope.md R13). -/
def blockRow (s : State) (i : BReg) (r : Nat) : Grp64 := rowLoad s.mem ((getB s i).base.toNat + r)

/-- The rows of block matrix i, in order. -/
def blockRows (s : State) (i : BReg) : List Grp64 := rowsLoad s.mem (getB s i).base.toNat (getB s i).rnum.toNat

/-- `BRow(i, r) <- g` (00_scope.md R13). -/
def setBlockRow (s : State) (i : BReg) (r : Nat) (g : Grp64) : State :=
  { s with mem := rowStore s.mem ((getB s i).base.toNat + r) g }

/-- Write rows 0, 1, 2, … of block matrix i. -/
def setBlockRows (s : State) (i : BReg) (rows : List Grp64) : State :=
  { s with mem := rowsStore s.mem (getB s i).base.toNat rows }

/-- The rows a descriptor names exist: `base + rnum ≤ ROWMEM_ROWS` (10_state.md R36, 20_memory.md R70). -/
def descFits (s : State) (i : BReg) : Bool := (getB s i).base.toNat + (getB s i).rnum.toNat ≤ s.params.rowmemRows

/-! ### Entropy -/

/-- Count n draws taken from ENTROPY (42_group.md R163). -/
def takeDraws (s : State) (n : Nat) : State := { s with draws := s.draws + n }

/-! ### Faults: entry and return -/

/-- The fault codes (60_exceptions.md R340). -/
inductive FaultCode where
  | illegalOpcode
  | reservedField
  | badDesc
  | dimMismatch
  | aliasFault
  | badIndex
  | badRow
  | badIdxwin
  | badElem
  | invZero
  | cmdOverrun
  deriving DecidableEq, Repr

/-- The FAULT_CODE byte of a fault (60_exceptions.md R340). -/
def faultCodeByte : FaultCode → BitVec 8
  | .illegalOpcode => 0x01
  | .reservedField => 0x02
  | .badDesc => 0x03
  | .dimMismatch => 0x04
  | .aliasFault => 0x05
  | .badIndex => 0x06
  | .badRow => 0x07
  | .badIdxwin => 0x08
  | .badElem => 0x09
  | .invZero => 0x0A
  | .cmdOverrun => 0x0B

/-- A fault about to be raised: `Fault(code, info)` (00_scope.md R13). -/
structure Trap where
  code : FaultCode
  info : Word
  deriving DecidableEq, Repr

/-- TAKING A FAULT, the one operation every fault uses (60_exceptions.md R342): the fault registers are written, FAULT
is set, BUSY is cleared, and nothing else changes. `insn` is the command word, 0 for CMD_OVERRUN. -/
def raiseFault (s : State) (t : Trap) (insn : Word32) : State :=
  setFaulted { s with faultCode := faultCodeByte t.code, faultPc := s.cpc, faultInsn := insn, faultInfo := t.info }

/-- RETURNING FROM A FAULT, which the host does (60_exceptions.md R345): clear FAULT, choose CPC, GO. The three host
writes that make it up are in Sys2Proof/Machine/HostPort.lean; the obligation `HostReturnsFromAFault` says that they come
to this. -/
def resumeAt (s : State) (pc : BitVec 32) : State :=
  setRunning { s with cpc := pc, status := { s.status with fault := false } }

/-- The first fault among checks in priority order (60_exceptions.md R341). -/
def firstTrap : List (Option Trap) → Option Trap
  | [] => none
  | some t :: _ => some t
  | none :: rest => firstTrap rest

/-! ### The shape of a command -/

/-- A command completes: `CPC <- CPC + 1`, `RETIRED <- RETIRED + 1` (45_sequencer.md R320). -/
def retire (s : State) : State := { s with cpc := s.cpc + 1, retired := s.retired + 1 }

/-- A command that touches no row memory: its checks in order; the first fault ends it, else all its effects are
applied and it completes (45_sequencer.md R320, 00_scope.md R14, R15). -/
def command (i : Instr) (s : State) (checks : List (Option Trap)) (effect : State → State) : Result :=
  match firstTrap checks with
  | some t => .next (raiseFault s t (encode i))
  | none => .next (retire (effect s))

/-- A command over the rows of the block matrices `descs`: as `command`, but where such a matrix names rows that do not
exist the model stops (notes/assumptions/8.md). -/
def blockCommand (i : Instr) (s : State) (descs : List BReg) (checks : List (Option Trap)) (effect : State → State) :
    Result :=
  match firstTrap checks with
  | some t => .next (raiseFault s t (encode i))
  | none => if descs.all (descFits s) then .next (retire (effect s)) else .fault .rowOutsideMemory

end Sys2Proof.Machine
end

