-- ==== Sys2Proof/Machine/Operands.lean ====
section
/-! DEFINITION. Operand forms: the immediate of format I, operand values read from X registers, and every operand check
with the fault it raises. Bounds are compared on the full 64-bit value (00_scope.md R10, 92_eei_decisions.md D32). -/

namespace Sys2Proof.Machine

/-! ### Immediates -/

/-- `zext_64(imm16) << (16·h)` (30_encoding.md R106). -/
def immValue (imm16 : BitVec 16) (h : BitVec 2) : Word := imm16.setWidth 64 <<< (16 * h.toNat)

/-- `v` with bits 16·h+15 .. 16·h replaced by imm16 (30_encoding.md R106, 45_sequencer.md R325). -/
def insertImm (v : Word) (imm16 : BitVec 16) (h : BitVec 2) : Word :=
  (v &&& ~~~(immValue 0xFFFF h)) ||| immValue imm16 h

/-! ### Values -/

/-- The field element in bits 3:0 of an X register (41_field.md R143). -/
def elemOf (v : Word) : Elem := v.extractLsb' 0 4

/-- A field element as a register value, zero-extended (41_field.md R144). -/
def ofElem (e : Elem) : Word := e.setWidth 64

/-- A boolean result: 1 or 0 (10_state.md R51, 92_eei_decisions.md D8). -/
def ofFlag (p : Bool) : Word := if p then 1 else 0

/-- A fixed-matrix row index that passed its check (42_group.md R162). -/
def rowIndex (v : Word) : Fin 64 := Fin.ofNat 64 v.toNat

/-! ### Checks -/

/-- A field element operand: BAD_ELEM above 15 (41_field.md R143). -/
def checkElem (v : Word) : Option Trap := if v.toNat ≤ 15 then none else some ⟨.badElem, v⟩

/-- A lane, column or fixed-matrix row index: BAD_INDEX above 63 (42_group.md R162). -/
def checkIndex (v : Word) : Option Trap := if v.toNat ≤ 63 then none else some ⟨.badIndex, v⟩

/-- FINV of 0: INV_ZERO (41_field.md R147). -/
def checkInvertible (v : Word) : Option Trap := if v = 0 then some ⟨.invZero, 0⟩ else none

/-- MGJ with one register as matrix and companion: ALIAS (43_matrix.md R227). -/
def checkAlias (a b : MReg) : Option Trap := if a = b then some ⟨.aliasFault, BitVec.ofNat 64 a.val⟩ else none

/-- `checkdesc(i)`: BAD_DESC where the descriptor is not valid (44_block.md R262). -/
def checkDesc (s : State) (i : BReg) : Option Trap :=
  if (getB s i).valid then none else some ⟨.badDesc, BitVec.ofNat 64 i.val⟩

/-- `checkrow(i, v)`: BAD_ROW where v is no row of the matrix (44_block.md R262). -/
def checkRow (s : State) (i : BReg) (v : Word) : Option Trap :=
  if v.toNat < (getB s i).rnum.toNat then none else some ⟨.badRow, v⟩

/-- DIM_MISMATCH where two block operands differ in rnum (44_block.md R263). -/
def checkDims (s : State) (d a : BReg) : Option Trap :=
  if (getB s d).rnum = (getB s a).rnum then none
  else some ⟨.dimMismatch, ((getB s d).rnum.setWidth 64 <<< 32) ||| (getB s a).rnum.setWidth 64⟩

/-- BAD_IDXWIN where the window of `count` entries from `start` runs past index memory (44_block.md R275). -/
def checkWindow (s : State) (start count : Word) : Option Trap :=
  if start.toNat + count.toNat ≤ s.params.idxEntries then none else some ⟨.badIdxwin, start⟩

/-- The entries of a row-subset list, zero-extended, in list order (44_block.md R274). -/
def idxEntries (s : State) (start count : Word) : List Word :=
  (List.range count.toNat).map fun k => (idxRead s (start.toNat + k)).setWidth 64

/-- BAD_ROW for the first bad entry in list order (44_block.md R275). -/
def checkEntries (s : State) (i : BReg) (entries : List Word) : Option Trap :=
  firstTrap (entries.map (checkRow s i))

/-- The list checks of BZCMS: the window before the entries (44_block.md R275, 60_exceptions.md R341). -/
def checkList (s : State) (i : BReg) (start count : Word) : Option Trap :=
  match checkWindow s start count with
  | some t => some t
  | none => checkEntries s i (idxEntries s start count)

end Sys2Proof.Machine
end

