-- ==== Sys2Proof/Machine/BlockCommands.lean ====
section
/-! DEFINITION. The block (tall) matrix commands (44_block.md). -/

namespace Sys2Proof.Machine

/-- BCFG's condition: a nonempty range inside ROWMEM that overlaps no other valid descriptor (44_block.md R260). -/
def blockPlaceable (s : State) (d : BReg) (base n : Nat) : Bool :=
  decide (1 ≤ n) && decide (base + n ≤ s.params.rowmemRows) &&
    (List.finRange 4).all fun j =>
      decide (j = d) || !(getB s j).valid || decide (base + n ≤ (getB s j).base.toNat) ||
        decide ((getB s j).base.toNat + (getB s j).rnum.toNat ≤ base)

/-- BCFG: configure a descriptor; a failure empties it and sets ALLOCFAIL, and is no fault (44_block.md R260). -/
def execBcfg (d : BReg) (a b : XReg) (s : State) : Result :=
  command (.bcfg d a b) s [] fun s =>
    if blockPlaceable s d (getX s a).toNat (getX s b).toNat then
      setB s d { valid := true, base := (getX s a).extractLsb' 0 32, rnum := (getX s b).extractLsb' 0 31 }
    else setAllocfail (setB s d emptyDesc)

/-- BFREE: release a descriptor (44_block.md R261). -/
def execBfree (d : BReg) (s : State) : Result :=
  command (.bfree d) s [] fun s => setB s d emptyDesc

/-- BGETR: read one block row (44_block.md R264). -/
def execBgetr (d : GReg) (a : BReg) (b : XReg) (s : State) : Result :=
  blockCommand (.bgetr d a b) s [a] [checkDesc s a, checkRow s a (getX s b)] fun s =>
    setG s d (blockRow s a (getX s b).toNat)

/-- BPUTR: write one block row (44_block.md R265). -/
def execBputr (d : BReg) (a : XReg) (b : GReg) (s : State) : Result :=
  blockCommand (.bputr d a b) s [d] [checkDesc s d, checkRow s d (getX s a)] fun s =>
    setBlockRow s d (getX s a).toNat (getG s b)

/-- BAT: read one element (44_block.md R266). -/
def execBat (d : XReg) (a : BReg) (b c : XReg) (s : State) : Result :=
  blockCommand (.bat d a b c) s [a] [checkDesc s a, checkRow s a (getX s b), checkIndex (getX s c)] fun s =>
    setX s d (ofElem (lane (blockRow s a (getX s b).toNat) (getX s c).toNat))

/-- BSETAT: write one element (44_block.md R267). -/
def execBsetat (d : BReg) (a b c : XReg) (s : State) : Result :=
  blockCommand (.bsetat d a b c) s [d]
    [checkDesc s d, checkRow s d (getX s a), checkIndex (getX s b), checkElem (getX s c)] fun s =>
    let r := (getX s a).toNat
    setBlockRow s d r (setLane (blockRow s d r) (getX s b).toNat (elemOf (getX s c)))

/-- BZERO: zero every row (44_block.md R268). -/
def execBzero (d : BReg) (s : State) : Result :=
  blockCommand (.bzero d) s [d] [checkDesc s d] fun s =>
    setBlockRows s d (List.replicate (getB s d).rnum.toNat zeroGroup)

/-- BRAND: one ENTROPY draw per row, free values (44_block.md R269). -/
def execBrand (d : BReg) (s : State) : Result :=
  blockCommand (.brand d) s [d] [checkDesc s d] fun s =>
    let n := (getB s d).rnum.toNat
    setBlockRows (takeDraws s n) d ((List.range n).map fun r => draw256 (s.draws + r))

/-- BCOPY: copy a block matrix (44_block.md R270). -/
def execBcopy (d a : BReg) (s : State) : Result :=
  blockCommand (.bcopy d a) s [d, a] [checkDesc s d, checkDesc s a, checkDims s d a] fun s =>
    setBlockRows s d (blockRows s a)

/-- BGRAM: the Gramian, overwriting M[d] (44_block.md R271). -/
def execBgram (d : MReg) (a : BReg) (s : State) : Result :=
  blockCommand (.bgram d a) s [a] [checkDesc s a] fun s => setM s d (gramian (blockRows s a))

/-- BZCM: zero-column mask (44_block.md R272). -/
def execBzcm (d : XReg) (a : BReg) (s : State) : Result :=
  blockCommand (.bzcm d a) s [a] [checkDesc s a] fun s => setX s d (zeroColumns (blockRows s a))

/-- BNZCM: nonzero-column mask (44_block.md R273). -/
def execBnzcm (d : XReg) (a : BReg) (s : State) : Result :=
  blockCommand (.bnzcm d a) s [a] [checkDesc s a] fun s => setX s d (~~~(zeroColumns (blockRows s a)))

/-- BZCMS: zero-column mask over a list of rows in index memory (44_block.md R274, R275). -/
def execBzcms (d : XReg) (a : BReg) (b c : XReg) (s : State) : Result :=
  blockCommand (.bzcms d a b c) s [a] [checkDesc s a, checkList s a (getX s b) (getX s c)] fun s =>
    setX s d (zeroColumns ((idxEntries s (getX s b) (getX s c)).map fun e => blockRow s a e.toNat))

/-- BFMA: every row gets its product added (44_block.md R276). -/
def execBfma (d a : BReg) (b : MReg) (s : State) : Result :=
  blockCommand (.bfma d a b) s [d, a] [checkDesc s d, checkDesc s a, checkDims s d a] fun s =>
    setBlockRows s d (List.zipWith (fun x y => gxor x (rowMul y (getM s b))) (blockRows s d) (blockRows s a))

/-- BFMAD: as BFMA, the product masked (44_block.md R277). -/
def execBfmad (d a : BReg) (b : MReg) (c : XReg) (s : State) : Result :=
  blockCommand (.bfmad d a b c) s [d, a] [checkDesc s d, checkDesc s a, checkDims s d a] fun s =>
    setBlockRows s d (List.zipWith (fun x y => gxor x (gmask (rowMul y (getM s b)) (getX s c)))
      (blockRows s d) (blockRows s a))

/-- BDFMA: the accumulator masked, then the product added (44_block.md R278). -/
def execBdfma (d a : BReg) (b : MReg) (c : XReg) (s : State) : Result :=
  blockCommand (.bdfma d a b c) s [d, a] [checkDesc s d, checkDesc s a, checkDims s d a] fun s =>
    setBlockRows s d (List.zipWith (fun x y => gxor (gmask x (getX s c)) (rowMul y (getM s b)))
      (blockRows s d) (blockRows s a))

/-- BMIX: blend two block matrices by column mask (44_block.md R279). -/
def execBmix (d a : BReg) (b : XReg) (s : State) : Result :=
  blockCommand (.bmix d a b) s [d, a] [checkDesc s d, checkDesc s a, checkDims s d a] fun s =>
    setBlockRows s d (List.zipWith (fun x y => gmix x y (getX s b)) (blockRows s d) (blockRows s a))

/-- BADD: rowwise add (44_block.md R280). -/
def execBadd (d a : BReg) (s : State) : Result :=
  blockCommand (.badd d a) s [d, a] [checkDesc s d, checkDesc s a, checkDims s d a] fun s =>
    setBlockRows s d (List.zipWith gxor (blockRows s d) (blockRows s a))

end Sys2Proof.Machine
end

