-- ==== Sys2Proof/Machine/FieldCommands.lean ====
section
/-! DEFINITION. The field commands: FADD, FMUL, FINV (41_field.md section 2). -/

namespace Sys2Proof.Machine

/-- FADD: field addition (41_field.md R144). -/
def execFadd (d a b : XReg) (s : State) : Result :=
  command (.fadd d a b) s [checkElem (getX s a), checkElem (getX s b)] fun s =>
    setX s d (ofElem (gfAdd (elemOf (getX s a)) (elemOf (getX s b))))

/-- FMUL: field multiplication (41_field.md R145). -/
def execFmul (d a b : XReg) (s : State) : Result :=
  command (.fmul d a b) s [checkElem (getX s a), checkElem (getX s b)] fun s =>
    setX s d (ofElem (gfMul (elemOf (getX s a)) (elemOf (getX s b))))

/-- FINV: field inverse by the table; INV_ZERO of 0 (41_field.md R147). -/
def execFinv (d a : XReg) (s : State) : Result :=
  command (.finv d a) s [checkElem (getX s a), checkInvertible (getX s a)] fun s =>
    setX s d (ofElem (gfInv (elemOf (getX s a))))

end Sys2Proof.Machine
end

