-- ==== Sys2Proof/Machine/GroupCommands.lean ====
section
/-! DEFINITION. The bitsliced group-of-64 commands (42_group.md section 2). -/

namespace Sys2Proof.Machine

/-- GRAND: a group drawn from ENTROPY, a free value (42_group.md R163). -/
def execGrand (d : GReg) (s : State) : Result :=
  command (.grand d) s [] fun s => setG (takeDraws s 1) d (draw256 s.draws)

/-- GZERO: zero a group (42_group.md R164). -/
def execGzero (d : GReg) (s : State) : Result :=
  command (.gzero d) s [] fun s => setG s d zeroGroup

/-- GCOPY: copy a group (42_group.md R165). -/
def execGcopy (d a : GReg) (s : State) : Result :=
  command (.gcopy d a) s [] fun s => setG s d (getG s a)

/-- GEQ: equality through zero positions (42_group.md R166). -/
def execGeq (d : XReg) (a b : GReg) (s : State) : Result :=
  command (.geq d a b) s [] fun s => setX s d (ofFlag (zpos (gxor (getG s a) (getG s b)) == ones))

/-- GZPOS: zero-position mask (42_group.md R167). -/
def execGzpos (d : XReg) (a : GReg) (s : State) : Result :=
  command (.gzpos d a) s [] fun s => setX s d (zpos (getG s a))

/-- GNZPOS: nonzero-position mask (42_group.md R168). -/
def execGnzpos (d : XReg) (a : GReg) (s : State) : Result :=
  command (.gnzpos d a) s [] fun s => setX s d (nzpos (getG s a))

/-- GGET: get one lane (42_group.md R169). -/
def execGget (d : XReg) (a : GReg) (b : XReg) (s : State) : Result :=
  command (.gget d a b) s [checkIndex (getX s b)] fun s =>
    setX s d (ofElem (lane (getG s a) (getX s b).toNat))

/-- GSET: set one lane (42_group.md R170). -/
def execGset (d : GReg) (a b : XReg) (s : State) : Result :=
  command (.gset d a b) s [checkIndex (getX s a), checkElem (getX s b)] fun s =>
    setG s d (setLane (getG s d) (getX s a).toNat (elemOf (getX s b)))

/-- GADDAT: add into one lane (42_group.md R171). -/
def execGaddat (d : GReg) (a b : XReg) (s : State) : Result :=
  command (.gaddat d a b) s [checkIndex (getX s a), checkElem (getX s b)] fun s =>
    let i := (getX s a).toNat
    setG s d (setLane (getG s d) i (gfAdd (lane (getG s d) i) (elemOf (getX s b))))

/-- GZSUB: zero the lanes whose mask bit is 0 (42_group.md R172). -/
def execGzsub (d : GReg) (a : XReg) (s : State) : Result :=
  command (.gzsub d a) s [] fun s => setG s d (gmask (getG s d) (getX s a))

/-- GZAT: zero one lane (42_group.md R173). -/
def execGzat (d : GReg) (a : XReg) (s : State) : Result :=
  command (.gzat d a) s [checkIndex (getX s a)] fun s =>
    setG s d (gmask (getG s d) (~~~(bit (getX s a).toNat)))

/-- GMIX: blend two groups by mask (42_group.md R174). -/
def execGmix (d a : GReg) (b : XReg) (s : State) : Result :=
  command (.gmix d a b) s [] fun s => setG s d (gmix (getG s d) (getG s a) (getX s b))

/-- GFNZ: index of the first nonzero lane, 64 where there is none (42_group.md R175). -/
def execGfnz (d : XReg) (a : GReg) (s : State) : Result :=
  command (.gfnz d a) s [] fun s =>
    setX s d (match lowestSet (nzpos (getG s a)) with
      | some i => BitVec.ofNat 64 i
      | none => 64)

/-- GADD: add in place (42_group.md R176). -/
def execGadd (d a : GReg) (s : State) : Result :=
  command (.gadd d a) s [] fun s => setG s d (gxor (getG s d) (getG s a))

/-- GSCALE: multiply every lane by a scalar (42_group.md R177). -/
def execGscale (d a : GReg) (b : XReg) (s : State) : Result :=
  command (.gscale d a b) s [checkElem (getX s b)] fun s =>
    setG s d (scale (getG s a) (elemOf (getX s b)))

/-- GSCALEI: scale by a lane of another group (42_group.md R178). -/
def execGscalei (d a b : GReg) (c : XReg) (s : State) : Result :=
  command (.gscalei d a b c) s [checkIndex (getX s c)] fun s =>
    setG s d (scale (getG s a) (lane (getG s b) (getX s c).toNat))

/-- GFMA: fused multiply-add (42_group.md R179). -/
def execGfma (d a : GReg) (b : XReg) (s : State) : Result :=
  command (.gfma d a b) s [checkElem (getX s b)] fun s =>
    setG s d (gxor (getG s d) (scale (getG s a) (elemOf (getX s b))))

/-- GFMAM: masked fused multiply-add (42_group.md R180). -/
def execGfmam (d a : GReg) (b c : XReg) (s : State) : Result :=
  command (.gfmam d a b c) s [checkElem (getX s b)] fun s =>
    setG s d (gxor (getG s d) (gmask (scale (getG s a) (elemOf (getX s b))) (getX s c)))

/-- GFMAI: fused multiply-add by a lane of another group (42_group.md R181). -/
def execGfmai (d a b : GReg) (c : XReg) (s : State) : Result :=
  command (.gfmai d a b c) s [checkIndex (getX s c)] fun s =>
    setG s d (gxor (getG s d) (scale (getG s a) (lane (getG s b) (getX s c).toNat)))

end Sys2Proof.Machine
end

