-- ==== Sys2Proof/Machine/MatrixCommands.lean ====
section
/-! DEFINITION. The fixed 64×64 matrix commands (43_matrix.md section 2). -/

namespace Sys2Proof.Machine

/-- MZERO: zero a matrix (43_matrix.md R221). -/
def execMzero (d : MReg) (s : State) : Result :=
  command (.mzero d) s [] fun s => setM s d zeroMatrix

/-- MIDENT: identity matrix (43_matrix.md R222). -/
def execMident (d : MReg) (s : State) : Result :=
  command (.mident d) s [] fun s => setM s d identMatrix

/-- MRAND: 64 rows drawn from ENTROPY, free values (43_matrix.md R223). -/
def execMrand (d : MReg) (s : State) : Result :=
  command (.mrand d) s [] fun s =>
    setM (takeDraws s 64) d (matrixOf fun r => draw256 (s.draws + r.val))

/-- MCOPY: copy a matrix (43_matrix.md R224). -/
def execMcopy (d a : MReg) (s : State) : Result :=
  command (.mcopy d a) s [] fun s => setM s d (getM s a)

/-- MSWAP: swap two rows (43_matrix.md R225). -/
def execMswap (d : MReg) (a b : XReg) (s : State) : Result :=
  command (.mswap d a b) s [checkIndex (getX s a), checkIndex (getX s b)] fun s =>
    setM s d (swapRows (getM s d) (rowIndex (getX s a)) (rowIndex (getX s b)))

/-- MMUL: matrix multiply, both sources read first (43_matrix.md R226). -/
def execMmul (d a b : MReg) (s : State) : Result :=
  command (.mmul d a b) s [] fun s => setM s d (mmul (getM s a) (getM s b))

/-- MGJ: Gauss-Jordan elimination with a companion (43_matrix.md R227). -/
def execMgj (d : XReg) (a b : MReg) (s : State) : Result :=
  command (.mgj d a b) s [checkAlias a b] fun s =>
    let r := gaussJordan (getM s a) (getM s b)
    setX (setM (setM s a r.m) b r.c) d r.mask

/-- MSYM: symmetry test (43_matrix.md R229). -/
def execMsym (d : XReg) (a : MReg) (s : State) : Result :=
  command (.msym d a) s [] fun s => setX s d (ofFlag (isSymmetric (getM s a)))

/-- MGETR: read one matrix row (43_matrix.md R230). -/
def execMgetr (d : GReg) (a : MReg) (b : XReg) (s : State) : Result :=
  command (.mgetr d a b) s [checkIndex (getX s b)] fun s =>
    setG s d (getM s a)[rowIndex (getX s b)]

/-- MPUTR: write one matrix row (43_matrix.md R231). -/
def execMputr (d : MReg) (a : XReg) (b : GReg) (s : State) : Result :=
  command (.mputr d a b) s [checkIndex (getX s a)] fun s =>
    setM s d ((getM s d).set (rowIndex (getX s a)) (getG s b))

end Sys2Proof.Machine
end

