-- ==== Sys2Proof/Machine/Sequencer.lean ====
section
/-! DEFINITION. The sequencer and X-register commands: NOP, HALT, XLI, XINS, XMOV (45_sequencer.md section 2). -/

namespace Sys2Proof.Machine

/-- NOP: only CPC and RETIRED move (45_sequencer.md R322). -/
def execNop (s : State) : Result :=
  command .nop s [] id

/-- HALT: BUSY <- 0 and DONE <- 1, after CPC and RETIRED move (45_sequencer.md R323). -/
def execHalt (s : State) : Result :=
  command .halt s [] setHalted

/-- XLI: load a shifted immediate (45_sequencer.md R324). -/
def execXli (d : XReg) (imm16 : BitVec 16) (h : BitVec 2) (s : State) : Result :=
  command (.xli d imm16 h) s [] fun s => setX s d (immValue imm16 h)

/-- XINS: insert a 16-bit field (45_sequencer.md R325). -/
def execXins (d : XReg) (imm16 : BitVec 16) (h : BitVec 2) (s : State) : Result :=
  command (.xins d imm16 h) s [] fun s => setX s d (insertImm (getX s d) imm16 h)

/-- XMOV: copy an X register (45_sequencer.md R326). -/
def execXmov (d a : XReg) (s : State) : Result :=
  command (.xmov d a) s [] fun s => setX s d (getX s a)

end Sys2Proof.Machine
end

