-- ==== Sys2Proof/Machine/Dispatch.lean ====
section
/-! DEFINITION. The dispatch of the 55 commands to their meanings: one arm per constructor. -/

namespace Sys2Proof.Machine

def exec (i : Instr) (s : State) : Host.Outcome State Fault Refusal :=
  match i with
  -- sequencer and X registers
  | .nop => Sys2Proof.Machine.execNop s
  | .halt => Sys2Proof.Machine.execHalt s
  | .xli d imm16 h => Sys2Proof.Machine.execXli d imm16 h s
  | .xins d imm16 h => Sys2Proof.Machine.execXins d imm16 h s
  | .xmov d a => Sys2Proof.Machine.execXmov d a s
  -- field
  | .fadd d a b => Sys2Proof.Machine.execFadd d a b s
  | .fmul d a b => Sys2Proof.Machine.execFmul d a b s
  | .finv d a => Sys2Proof.Machine.execFinv d a s
  -- group
  | .gzero d => Sys2Proof.Machine.execGzero d s
  | .gcopy d a => Sys2Proof.Machine.execGcopy d a s
  | .grand d => Sys2Proof.Machine.execGrand d s
  | .geq d a b => Sys2Proof.Machine.execGeq d a b s
  | .gzpos d a => Sys2Proof.Machine.execGzpos d a s
  | .gnzpos d a => Sys2Proof.Machine.execGnzpos d a s
  | .gget d a b => Sys2Proof.Machine.execGget d a b s
  | .gset d a b => Sys2Proof.Machine.execGset d a b s
  | .gaddat d a b => Sys2Proof.Machine.execGaddat d a b s
  | .gzsub d a => Sys2Proof.Machine.execGzsub d a s
  | .gzat d a => Sys2Proof.Machine.execGzat d a s
  | .gmix d a b => Sys2Proof.Machine.execGmix d a b s
  | .gfnz d a => Sys2Proof.Machine.execGfnz d a s
  | .gadd d a => Sys2Proof.Machine.execGadd d a s
  | .gscale d a b => Sys2Proof.Machine.execGscale d a b s
  | .gscalei d a b c => Sys2Proof.Machine.execGscalei d a b c s
  | .gfma d a b => Sys2Proof.Machine.execGfma d a b s
  | .gfmam d a b c => Sys2Proof.Machine.execGfmam d a b c s
  | .gfmai d a b c => Sys2Proof.Machine.execGfmai d a b c s
  -- fixed matrix
  | .mzero d => Sys2Proof.Machine.execMzero d s
  | .mident d => Sys2Proof.Machine.execMident d s
  | .mrand d => Sys2Proof.Machine.execMrand d s
  | .mcopy d a => Sys2Proof.Machine.execMcopy d a s
  | .mswap d a b => Sys2Proof.Machine.execMswap d a b s
  | .mmul d a b => Sys2Proof.Machine.execMmul d a b s
  | .mgj d a b => Sys2Proof.Machine.execMgj d a b s
  | .msym d a => Sys2Proof.Machine.execMsym d a s
  | .mgetr d a b => Sys2Proof.Machine.execMgetr d a b s
  | .mputr d a b => Sys2Proof.Machine.execMputr d a b s
  -- block matrix
  | .bcfg d a b => Sys2Proof.Machine.execBcfg d a b s
  | .bfree d => Sys2Proof.Machine.execBfree d s
  | .bgetr d a b => Sys2Proof.Machine.execBgetr d a b s
  | .bputr d a b => Sys2Proof.Machine.execBputr d a b s
  | .bat d a b c => Sys2Proof.Machine.execBat d a b c s
  | .bsetat d a b c => Sys2Proof.Machine.execBsetat d a b c s
  | .bzero d => Sys2Proof.Machine.execBzero d s
  | .brand d => Sys2Proof.Machine.execBrand d s
  | .bcopy d a => Sys2Proof.Machine.execBcopy d a s
  | .bgram d a => Sys2Proof.Machine.execBgram d a s
  | .bzcm d a => Sys2Proof.Machine.execBzcm d a s
  | .bnzcm d a => Sys2Proof.Machine.execBnzcm d a s
  | .bzcms d a b c => Sys2Proof.Machine.execBzcms d a b c s
  | .bfma d a b => Sys2Proof.Machine.execBfma d a b s
  | .bfmad d a b c => Sys2Proof.Machine.execBfmad d a b c s
  | .bdfma d a b c => Sys2Proof.Machine.execBdfma d a b c s
  | .bmix d a b => Sys2Proof.Machine.execBmix d a b s
  | .badd d a => Sys2Proof.Machine.execBadd d a s

end Sys2Proof.Machine
end

