-- ==== Sys2Proof/Machine/Fetch.lean ====
section
/-! DEFINITION. Fetching and decoding the next command (45_sequencer.md R320, 60_exceptions.md R343). -/

namespace Sys2Proof.Machine

/-- The fault of a word that is no instruction (30_encoding.md R107, 60_exceptions.md R340). -/
def decodeTrap : DecodeError → Trap
  | .illegalOpcode op => ⟨.illegalOpcode, op.setWidth 64⟩
  | .reservedField bits => ⟨.reservedField, bits.setWidth 64⟩

/-- The command at CPC, or the fault its fetch or decode raises with the FAULT_INSN it records: CMD_OVERRUN, with 0,
where CPC ≥ CMD_WORDS (45_sequencer.md R320, 60_exceptions.md R341, R343). -/
def fetch (s : State) : Except (Trap × Word32) Instr :=
  if s.params.cmdWords ≤ s.cpc.toNat then .error (⟨.cmdOverrun, s.cpc.setWidth 64⟩, 0)
  else
    match decode (cmdRead s s.cpc.toNat) with
    | .ok i => .ok i
    | .error e => .error (decodeTrap e, cmdRead s s.cpc.toNat)

end Sys2Proof.Machine
end

