-- ==== Sys2Proof/Machine/HostPort.lean ====
section
/-! DEFINITION. The host port (20_memory.md sections 2 to 4), GO (45_sequencer.md R321) and the RESET input
(70_reset_and_hazards.md R380, R381). -/

namespace Sys2Proof.Machine

/-- What a 64-bit slot of the window holds (20_memory.md R72). -/
inductive Slot where
  | idReg
  | paramReg
  | ctrl
  | statusReg
  | irqEnReg
  | cpcReg
  | faultCodeReg
  | faultPcReg
  | faultInsnReg
  | faultInfoReg
  | retiredReg
  | descReg (n : BReg)
  | xSlot (n : XReg)
  | gSlot (n : GReg) (p : Fin 4)
  | mSlot (n : MReg) (r : Fin 64) (p : Fin 4)
  | memory
  deriving DecidableEq, Repr

/-- The control-register slots, by slot number (offset / 8); `none` is reserved (20_memory.md R72). -/
def controlSlot : Nat → Option Slot
  | 0 => some .idReg
  | 1 => some .paramReg
  | 2 => some .ctrl
  | 3 => some .statusReg
  | 4 => some .irqEnReg
  | 5 => some .cpcReg
  | 6 => some .faultCodeReg
  | 7 => some .faultPcReg
  | 8 => some .faultInsnReg
  | 9 => some .faultInfoReg
  | 10 => some .retiredReg
  | 12 => some (.descReg 0)
  | 13 => some (.descReg 1)
  | 14 => some (.descReg 2)
  | 15 => some (.descReg 3)
  | _ => none

/-- The slot an access of `width` bytes at a window offset reaches; `none` is reserved (20_memory.md R72, R76). An access
to the memories exists only where every byte of it does (notes/assumptions/5.md). -/
def slotAt (P : Params) (offset width : Nat) : Option Slot :=
  if offset < 0x100 then controlSlot (offset / 8)
  else if offset < 0x180 then some (.xSlot (Fin.ofNat 16 ((offset - 0x100) / 8)))
  else if offset < 0x200 then none
  else if offset < 0x400 then
    some (.gSlot (Fin.ofNat 16 ((offset - 0x200) / 32)) (Fin.ofNat 4 ((offset - 0x200) / 8)))
  else if offset < 0x10000 then none
  else if offset < 0x14000 then
    some (.mSlot (Fin.ofNat 8 ((offset - 0x10000) / 0x800)) (Fin.ofNat 64 ((offset - 0x10000) / 32))
      (Fin.ofNat 4 ((offset - 0x10000) / 8)))
  else if (List.range width).all fun k => mappedByte P (offset + k) then some .memory
  else none

/-- PARAM (10_state.md R39). -/
def paramWord (P : Params) : Word :=
  BitVec.ofNat 16 P.idxEntries ++ BitVec.ofNat 16 P.cmdWords ++ BitVec.ofNat 32 P.rowmemRows

/-- The 64 bits of a register slot (10_state.md R38 to R49, R31 to R35); reserved bits read 0. The memories are read
by offset, so their slot has no value here. -/
def slotWord (s : State) : Slot → Word
  | .idReg => Config.idRegister
  | .paramReg => paramWord s.params
  | .ctrl => 0
  | .statusReg => statusWord s.status
  | .irqEnReg => irqEnWord s.irqEn
  | .cpcReg => s.cpc.setWidth 64
  | .faultCodeReg => s.faultCode.setWidth 64
  | .faultPcReg => s.faultPc.setWidth 64
  | .faultInsnReg => s.faultInsn.setWidth 64
  | .faultInfoReg => s.faultInfo
  | .retiredReg => s.retired
  | .descReg n => descWord (getB s n)
  | .xSlot n => getX s n
  | .gSlot n p => plane (getG s n) p
  | .mSlot n r p => plane (getM s n)[r] p
  | .memory => 0

/-- The part of a slot an access moves: the whole of it, bits 31:0 at +0 or bits 63:32 at +4, zero-extended
(20_memory.md R74). -/
def slotPart (v : Word) (offset width : Nat) : Word :=
  if width = 8 then v
  else if offset % 8 = 0 then (v.extractLsb' 0 32).setWidth 64
  else (v.extractLsb' 32 32).setWidth 64

/-- The slot bits a write reaches (20_memory.md R74). -/
def writeMask (offset width : Nat) : Word :=
  if width = 8 then ones
  else if offset % 8 = 0 then 0x00000000FFFFFFFF#64
  else 0xFFFFFFFF00000000#64

/-- The written value moved to the slot bits it reaches, 0 elsewhere (20_memory.md R74). -/
def writeBits (offset width : Nat) (value : Word) : Word :=
  if width = 8 then value
  else if offset % 8 = 0 then (value.extractLsb' 0 32).setWidth 64
  else (value.extractLsb' 0 32).setWidth 64 <<< 32

/-- A slot after a write: the half not reached is unchanged (20_memory.md R74). -/
def mergeWrite (old : Word) (offset width : Nat) (value : Word) : Word :=
  (old &&& ~~~(writeMask offset width)) ||| writeBits offset width value

/-- 4 or 8 bytes wide, at a multiple of the width, inside the window (20_memory.md R73). -/
def wellPlaced (offset width : Nat) : Bool :=
  (width == 4 || width == 8) && offset % width == 0 && decide (offset < Config.windowBytes)

/-- The slots the host may read while BUSY = 1 (20_memory.md R75). -/
def readableBusy : Slot → Bool
  | .idReg | .paramReg | .ctrl | .statusReg | .irqEnReg => true
  | _ => false

/-- The slots the host may write while BUSY = 1 (20_memory.md R75). -/
def writableBusy : Slot → Bool
  | .statusReg | .irqEnReg => true
  | _ => false

/-- The read-only registers (20_memory.md R77). -/
def readOnly : Slot → Bool
  | .idReg | .paramReg | .faultCodeReg | .faultPcReg | .faultInsnReg | .faultInfoReg | .retiredReg | .descReg _ => true
  | _ => false

/-- GO: refused with HERR while BUSY or FAULT is set, else a run starts (45_sequencer.md R321). -/
def go (s : State) : State :=
  if s.status.busy || s.status.fault then setHerr s else setRunning s

/-- A host write that is not rejected, to the slot it reaches (20_memory.md R74, R79; 10_state.md R40 to R43). Only a
write whose bit 0 is reached and 1 is GO; reserved bits are ignored (R77). -/
def writeSlot (s : State) (offset width : Nat) (value : Word) : Slot → State
  | .ctrl => if (writeBits offset width value).getLsbD 0 then go s else s
  | .statusReg => { s with status := clearStatus s.status (writeBits offset width value) }
  | .irqEnReg => { s with irqEn := irqEnOfWord (mergeWrite (irqEnWord s.irqEn) offset width value) }
  | .cpcReg => { s with cpc := (mergeWrite (s.cpc.setWidth 64) offset width value).extractLsb' 0 32 }
  | .xSlot n => setX s n (mergeWrite (getX s n) offset width value)
  | .gSlot n p => setG s n (setPlane (getG s n) p (mergeWrite (plane (getG s n) p) offset width value))
  | .mSlot n r p =>
    setM s n ((getM s n).set r (setPlane (getM s n)[r] p (mergeWrite (plane (getM s n)[r] p) offset width value)))
  | .memory =>
    { s with mem := if width = 8 then memStore64 s.mem offset value
                    else memStore32 s.mem offset (value.extractLsb' 0 32) }
  | _ => s

/-- What a host read that is not rejected returns (20_memory.md R74). -/
def readSlot (s : State) (offset width : Nat) : Slot → Word
  | .memory => if width = 8 then memLoad64 s.mem offset else (memLoad32 s.mem offset).setWidth 64
  | slot => slotPart (slotWord s slot) offset width

/-- A host read: its data in `readData`, or 0 and HERR where it is rejected (20_memory.md R73, R75, R76). -/
def hostRead (s : State) (offset width : Nat) : State :=
  match slotAt s.params offset width with
  | some slot =>
    if wellPlaced offset width && (!s.status.busy || readableBusy slot) then
      { s with readData := readSlot s offset width slot }
    else setHerr { s with readData := 0 }
  | none => setHerr { s with readData := 0 }

/-- A host write, or HERR alone where it is rejected (20_memory.md R73, R75, R76, R77). -/
def hostWrite (s : State) (offset width : Nat) (value : Word) : State :=
  match slotAt s.params offset width with
  | some slot =>
    if wellPlaced offset width && !readOnly slot && (!s.status.busy || writableBusy slot) then
      writeSlot s offset width value slot
    else setHerr s
  | none => setHerr s

/-- One access of the host (20_memory.md R78). -/
def hostAccess (s : State) : HostAccess → State
  | .read offset width => hostRead s offset width
  | .write offset width value => hostWrite s offset width value

/-- The RESET input: every piece of state takes its reset value, and the content the spec does not fix is the draw
(70_reset_and_hazards.md R380, R381; 10_state.md R53, R54). The parameters are constant, and the model's own fields
belong to the environment, so they stay (notes/assumptions/9.md). -/
def applyReset (s : State) (draw : ResetDraw) : State :=
  { State.reset with
    params := s.params
    g := draw.g
    m := draw.m
    mem := drawMemory s.params draw.cells
    draws := s.draws
    inputs := s.inputs
    readData := s.readData }

end Sys2Proof.Machine
end

