-- ==== Sys2Proof/Machine/Step.lean ====
section
/-! DEFINITION. One step of the machine: a turn of the sequencer, of the host or of RESET. -/

namespace Sys2Proof.Machine

/-- A turn of the sequencer: while BUSY = 1 it fetches and runs one command, while BUSY = 0 it does nothing
(45_sequencer.md R320). -/
def sequencerStep (s : State) : Result :=
  if s.status.busy then
    match fetch s with
    | .ok i => exec i s
    | .error (t, insn) => .next (raiseFault s t insn)
  else .next s

/-- One step: the next turn of `inputs`; with none listed, the sequencer's (10_state.md R30, 20_memory.md R82;
notes/assumptions/6.md). -/
def step (s : State) : Host.Outcome State Fault Refusal :=
  match s.inputs with
  | [] => sequencerStep s
  | .sequencer :: rest => sequencerStep { s with inputs := rest }
  | .host access :: rest => .next (hostAccess { s with inputs := rest } access)
  | .reset draw :: rest => .next (applyReset { s with inputs := rest } draw)

/-- The command index the next fetch reads: CPC where it is one, else 0. -/
def fetchIndex (s : State) : BitVec 32 := if s.cpc.toNat < s.params.cmdWords then s.cpc else 0

/-- The word stored where the next step fetches, and what that fetch needs: a run in progress and no other turn first
(notes/assumptions/12.md). -/
def State.withFetchWord (s : State) (nbits w : Nat) : State :=
  { s with
    cpc := fetchIndex s
    status := { s.status with busy := true }
    mem := memStore32 s.mem (cmdOffset (fetchIndex s).toNat) (BitVec.ofNat 32 (w % 2 ^ nbits))
    inputs := [] }

end Sys2Proof.Machine
end

