-- ==== Sys2Proof/Safety.lean ====
section
/-! DEFINITION. What a good state is, in the terms the claims use. -/

namespace Sys2Proof.Machine

/-- Every valid descriptor is nonempty and lies inside ROWMEM (10_state.md R36). -/
def descsInRange (s : State) : Prop :=
  ∀ i : BReg, (getB s i).valid = true → 1 ≤ (getB s i).rnum.toNat ∧
    (getB s i).base.toNat + (getB s i).rnum.toNat ≤ s.params.rowmemRows

/-- Two different valid descriptors share no row (10_state.md R36). -/
def descsDisjoint (s : State) : Prop :=
  ∀ i j : BReg, i ≠ j → (getB s i).valid = true → (getB s j).valid = true →
    (getB s i).base.toNat + (getB s i).rnum.toNat ≤ (getB s j).base.toNat ∨
      (getB s j).base.toNat + (getB s j).rnum.toNat ≤ (getB s i).base.toNat

/-- The descriptor invariant of 10_state.md R36. -/
def DescInv (s : State) : Prop := descsInRange s ∧ descsDisjoint s

/-- The memory list is canonical and lists only bytes that exist (20_memory.md R70). -/
def MemInv (s : State) : Prop := memWf s.mem = true ∧ memMapped s.params s.mem = true

/-- While a run is in progress no fault and no completion is pending: GO clears DONE and is refused with FAULT set, and
HALT and a fault end the run (10_state.md R41, 45_sequencer.md R321, R323, 60_exceptions.md R342). -/
def RunInv (s : State) : Prop := s.status.busy = true → s.status.fault = false ∧ s.status.done = false

/-- FAULT_CODE holds 0 or a code of 60_exceptions.md R340, and a pending FAULT has a code. -/
def FaultInv (s : State) : Prop := s.faultCode.toNat ≤ 0x0B ∧ (s.status.fault = true → s.faultCode ≠ 0)

/-- A good state: every invariant together. -/
def Inv (s : State) : Prop := DescInv s ∧ MemInv s ∧ RunInv s ∧ FaultInv s

/-- A window offset of one of the n rows that start at row-memory row r (20_memory.md R72). -/
def inRows (r n a : Nat) : Prop := rowOffset r ≤ a ∧ a < rowOffset (r + n)

/-- A window offset of a row of a valid descriptor (44_block.md R282, descriptor safety). -/
def inValidRows (s : State) (a : Nat) : Prop :=
  ∃ i : BReg, (getB s i).valid = true ∧ inRows (getB s i).base.toNat (getB s i).rnum.toNat a

/-- The machine after k steps, if none of them stops. -/
def runFor : Nat → State → Result
  | 0, s => .next s
  | k + 1, s =>
    match step s with
    | .next t => runFor k t
    | .fault r => .fault r
    | .refused r => .refused r

end Sys2Proof.Machine
end

