-- ==== Sys2Proof/Certificates/Slice0/Obligations.lean ====
section
/-! DEFINITION. The statements for the provers. Each docstring names the rules of spec/ that the statement formalises.
The helpers before them only abbreviate what the statements say. -/

namespace Sys2Proof.Claims

open Sys2Proof.Machine

/-- The state with the two counters every completing command moves (45_sequencer.md R320), and nothing else changed. -/
def advanced (s : State) : State := { s with cpc := s.cpc + 1, retired := s.retired + 1 }

/-- The state a fault leaves (60_exceptions.md R342): the four fault registers, FAULT and BUSY, and nothing else changed. -/
def faulted (s : State) (code : BitVec 8) (info : Word) (insn : Word32) : State :=
  { s with
    faultCode := code
    faultPc := s.cpc
    faultInsn := insn
    faultInfo := info
    status := { s.status with fault := true, busy := false } }

/-- The command takes the fault `code` with FAULT_INFO `info`. -/
def faults (i : Instr) (s : State) (code : BitVec 8) (info : Word) : Prop :=
  exec i s = .next (faulted s code info (encode i))

/-- The command completes and X[d] becomes v; nothing else changes. -/
def setsX (i : Instr) (s : State) (d : XReg) (v : Word) : Prop :=
  exec i s = .next { advanced s with x := s.x.set d v }

/-- The command completes and X[d] becomes the word whose bit j is `P j`; nothing else changes. -/
def setsXBits (i : Instr) (s : State) (d : XReg) (P : Nat → Prop) : Prop :=
  ∃ v : Word, setsX i s d v ∧ ∀ j < 64, (v.getLsbD j = true ↔ P j)

/-- The command completes and lane j of G[d] becomes `f j`; nothing else changes. -/
def setsG (i : Instr) (s : State) (d : GReg) (f : Nat → Elem) : Prop :=
  ∃ v : Grp64, exec i s = .next { advanced s with g := s.g.set d v } ∧ ∀ j < 64, lane v j = f j

/-- The command completes and M[d][r][c] becomes `f r c`; nothing else changes. -/
def setsM (i : Instr) (s : State) (d : MReg) (f : Fin 64 → Fin 64 → Elem) : Prop :=
  ∃ v : Mat64, exec i s = .next { advanced s with m := s.m.set d v } ∧ ∀ r c, entry v r c = f r c

/-- The command completes and stores the n rows from row-memory row `r0` on: lane j of the k-th is `f k j`. Every byte
of memory outside those rows reads as before, and nothing else changes. -/
def setsRows (i : Instr) (s : State) (r0 n : Nat) (f : Nat → Nat → Elem) : Prop :=
  ∃ mem' : Memory, exec i s = .next { advanced s with mem := mem' } ∧
    (∀ k < n, ∀ j < 64, lane (rowLoad mem' (r0 + k)) j = f k j) ∧
    (∀ a, ¬ inRows r0 n a → memByte mem' a = memByte s.mem a)

/-- XOR of a list of field elements. -/
def xorAll (l : List Elem) : Elem := l.foldl (fun acc e => acc ^^^ e) 0

/-- Descriptor i is valid and its rows exist (44_block.md R262, 10_state.md R36). -/
def blockReady (s : State) (i : BReg) : Prop :=
  (getB s i).valid = true ∧ (getB s i).base.toNat + (getB s i).rnum.toNat ≤ s.params.rowmemRows

/-- First row-memory row of block matrix i. -/
def base (s : State) (i : BReg) : Nat := (getB s i).base.toNat

/-- Row count of block matrix i. -/
def rnum (s : State) (i : BReg) : Nat := (getB s i).rnum.toNat

/-- Element (r, j) of block matrix i (00_scope.md R12, R13). -/
def elt (s : State) (i : BReg) (r j : Nat) : Elem := lane (blockRow s i r) j

/-- Two block operands are ready and have the same row count (44_block.md R262, R263). -/
def pairReady (s : State) (d a : BReg) : Prop :=
  blockReady s d ∧ blockReady s a ∧ (getB s d).rnum = (getB s a).rnum ∧ memWf s.mem = true

/-- Element (r, j) of the product of block matrix a and M[b] (44_block.md section 5, 43_matrix.md R220). -/
def prodElt (s : State) (a : BReg) (b : MReg) (r j : Nat) : Elem :=
  xorAll ((List.finRange 64).map fun k => gfMul (elt s a r k.val) (lane (getM s b)[k] j))

/-- The X register a command may write: field d where its class is X (30_encoding.md R102, R108). -/
def xDest : Instr → Option XReg
  | .xli d _ _ | .xins d _ _ | .xmov d _ | .fadd d _ _ | .fmul d _ _ | .finv d _ | .geq d _ _ | .gzpos d _
  | .gnzpos d _ | .gget d _ _ | .gfnz d _ | .mgj d _ _ | .msym d _ | .bat d _ _ _ | .bzcm d _ | .bnzcm d _
  | .bzcms d _ _ _ => some d
  | _ => none

/-- The G register a command may write. -/
def gDest : Instr → Option GReg
  | .gzero d | .gcopy d _ | .grand d | .gset d _ _ | .gaddat d _ _ | .gzsub d _ | .gzat d _ | .gmix d _ _ | .gadd d _
  | .gscale d _ _ | .gscalei d _ _ _ | .gfma d _ _ | .gfmam d _ _ _ | .gfmai d _ _ _ | .mgetr d _ _
  | .bgetr d _ _ => some d
  | _ => none

/-- The M registers a command may write; MGJ updates both of its M operands (43_matrix.md R227). -/
def mDests : Instr → List MReg
  | .mzero d | .mident d | .mrand d | .mcopy d _ | .mswap d _ _ | .mmul d _ _ | .mputr d _ _ | .bgram d _ => [d]
  | .mgj _ a b => [a, b]
  | _ => []

/-- The descriptor a command may change: only BCFG and BFREE have one (10_state.md R35). -/
def bDest : Instr → Option BReg
  | .bcfg d _ _ | .bfree d => some d
  | _ => none

/-- The block matrix whose rows a command may store to. -/
def rowsDest : Instr → Option BReg
  | .bputr d _ _ | .bsetat d _ _ _ | .bzero d | .brand d | .bcopy d _ | .bfma d _ _ | .bfmad d _ _ _ | .bdfma d _ _ _
  | .bmix d _ _ | .badd d _ => some d
  | _ => none

/-- The block matrices whose rows a command reads or writes, d before a (44_block.md R262). -/
def namedBlocks : Instr → List BReg
  | .bgetr _ a _ | .bat _ a _ _ | .bgram _ a | .bzcm _ a | .bnzcm _ a | .bzcms _ a _ _ => [a]
  | .bputr d _ _ | .bsetat d _ _ _ | .bzero d | .brand d => [d]
  | .bcopy d a | .bfma d a _ | .bfmad d a _ _ | .bdfma d a _ _ | .bmix d a _ | .badd d a => [d, a]
  | _ => []

/-- How many ENTROPY draws a completing command takes (42_group.md R163, 43_matrix.md R223, 44_block.md R269). -/
def drawsTaken (s : State) : Instr → Nat
  | .grand _ => 1
  | .mrand _ => 64
  | .brand d => rnum s d
  | _ => 0

/-- The `match` and `mask` columns of the opcode map (30_encoding.md R108). -/
def opcodeColumns : List (Word32 × Word32) :=
  [(0x00000000, 0xFFFFFFFF), (0x01000000, 0xFFFFFFFF), (0x02000000, 0xFF0C0000), (0x03000000, 0xFF0C0000),
   (0x04000000, 0xFF00FFFF), (0x10000000, 0xFF000FFF), (0x11000000, 0xFF000FFF), (0x12000000, 0xFF00FFFF),
   (0x20000000, 0xFF0FFFFF), (0x21000000, 0xFF00FFFF), (0x22000000, 0xFF0FFFFF), (0x23000000, 0xFF000FFF),
   (0x24000000, 0xFF00FFFF), (0x25000000, 0xFF00FFFF), (0x26000000, 0xFF000FFF), (0x27000000, 0xFF000FFF),
   (0x28000000, 0xFF000FFF), (0x29000000, 0xFF00FFFF), (0x2A000000, 0xFF00FFFF), (0x2B000000, 0xFF000FFF),
   (0x2C000000, 0xFF00FFFF), (0x2D000000, 0xFF00FFFF), (0x2E000000, 0xFF000FFF), (0x2F000000, 0xFF0000FF),
   (0x30000000, 0xFF000FFF), (0x31000000, 0xFF0000FF), (0x32000000, 0xFF0000FF), (0x40000000, 0xFF8FFFFF),
   (0x41000000, 0xFF8FFFFF), (0x42000000, 0xFF8FFFFF), (0x43000000, 0xFF88FFFF), (0x44000000, 0xFF800FFF),
   (0x45000000, 0xFF888FFF), (0x46000000, 0xFF088FFF), (0x47000000, 0xFF08FFFF), (0x48000000, 0xFF080FFF),
   (0x49000000, 0xFF800FFF), (0x50000000, 0xFFC00FFF), (0x51000000, 0xFFCFFFFF), (0x52000000, 0xFF0C0FFF),
   (0x53000000, 0xFFC00FFF), (0x54000000, 0xFF0C00FF), (0x55000000, 0xFFC000FF), (0x56000000, 0xFFCFFFFF),
   (0x57000000, 0xFFCFFFFF), (0x58000000, 0xFFCCFFFF), (0x59000000, 0xFF8CFFFF), (0x5A000000, 0xFF0CFFFF),
   (0x5B000000, 0xFF0CFFFF), (0x5C000000, 0xFF0C00FF), (0x5D000000, 0xFFCC8FFF), (0x5E000000, 0xFFCC80FF),
   (0x5F000000, 0xFFCC80FF), (0x60000000, 0xFFCC0FFF), (0x61000000, 0xFFCCFFFF)]

/-- The multiplication table, by rows (41_field.md R149). -/
def mulTable : List (List Nat) :=
  [[0, 0, 0, 0, 0, 0, 0, 0, 0, 0, 0, 0, 0, 0, 0, 0], [0, 1, 2, 3, 4, 5, 6, 7, 8, 9, 10, 11, 12, 13, 14, 15],
   [0, 2, 4, 6, 8, 10, 12, 14, 3, 1, 7, 5, 11, 9, 15, 13], [0, 3, 6, 5, 12, 15, 10, 9, 11, 8, 13, 14, 7, 4, 1, 2],
   [0, 4, 8, 12, 3, 7, 11, 15, 6, 2, 14, 10, 5, 1, 13, 9], [0, 5, 10, 15, 7, 2, 13, 8, 14, 11, 4, 1, 9, 12, 3, 6],
   [0, 6, 12, 10, 11, 13, 7, 1, 5, 3, 9, 15, 14, 8, 2, 4], [0, 7, 14, 9, 15, 8, 1, 6, 13, 10, 3, 4, 2, 5, 12, 11],
   [0, 8, 3, 11, 6, 14, 5, 13, 12, 4, 15, 7, 10, 2, 9, 1], [0, 9, 1, 8, 2, 11, 3, 10, 4, 13, 5, 12, 6, 15, 7, 14],
   [0, 10, 7, 13, 14, 4, 9, 3, 15, 5, 8, 2, 1, 11, 6, 12], [0, 11, 5, 14, 10, 1, 15, 4, 7, 12, 2, 9, 13, 6, 8, 3],
   [0, 12, 11, 7, 5, 9, 14, 2, 10, 6, 1, 13, 15, 3, 4, 8], [0, 13, 9, 4, 1, 12, 8, 5, 2, 15, 11, 6, 3, 14, 10, 7],
   [0, 14, 15, 1, 13, 3, 2, 12, 9, 7, 6, 8, 4, 10, 11, 5], [0, 15, 13, 2, 9, 6, 4, 11, 1, 14, 12, 3, 8, 7, 5, 10]]

/-- The rejection of a host access (60_exceptions.md R347): HERR is set and the access has no other effect; a rejected
read returns 0. -/
def rejected (s : State) : HostAccess → State
  | .read _ _ => { s with status := { s.status with herr := true }, readData := 0 }
  | .write _ _ _ => { s with status := { s.status with herr := true } }

/-- The offset of an access. -/
def offsetOf : HostAccess → Nat
  | .read off _ => off
  | .write off _ _ => off

/-- The width of an access in bytes. -/
def widthOf : HostAccess → Nat
  | .read _ w => w
  | .write _ w _ => w

/-- A host access is 4 or 8 bytes wide, at a multiple of its width, inside the window (20_memory.md R73). -/
def legalShape (a : HostAccess) : Prop :=
  (widthOf a = 4 ∨ widthOf a = 8) ∧ offsetOf a % widthOf a = 0 ∧ offsetOf a < 0x2000000

/-- A window offset that 20_memory.md R72 lists as reserved. -/
def reservedOffset (P : Params) (o : Nat) : Prop :=
  (0x058 ≤ o ∧ o < 0x060) ∨ (0x080 ≤ o ∧ o < 0x100) ∨ (0x180 ≤ o ∧ o < 0x200) ∨ (0x400 ≤ o ∧ o < 0x10000) ∨
    (0x14000 ≤ o ∧ o < 0x20000) ∨ (0x20000 + 4 * P.cmdWords ≤ o ∧ o < 0x30000) ∨
    (0x30000 + 4 * P.idxEntries ≤ o ∧ o < 0x40000) ∨ (0x40000 ≤ o ∧ o < 0x1000000) ∨
    (0x1000000 + 32 * P.rowmemRows ≤ o ∧ o < 0x2000000)

/-- A window offset of a read-only register (20_memory.md R72, R77). -/
def readOnlyOffset (o : Nat) : Prop := o < 0x010 ∨ (0x030 ≤ o ∧ o < 0x058) ∨ (0x060 ≤ o ∧ o < 0x080)

/-- A window offset of a slot whose write simply stores its value: X, G, M or an existing memory byte (20_memory.md R72,
R79). -/
def plainOffset (P : Params) (o : Nat) : Prop :=
  (0x100 ≤ o ∧ o < 0x180) ∨ (0x200 ≤ o ∧ o < 0x400) ∨ (0x10000 ≤ o ∧ o < 0x14000) ∨
    (0x20000 ≤ o ∧ o < 0x20000 + 4 * P.cmdWords) ∨ (0x30000 ≤ o ∧ o < 0x30000 + 4 * P.idxEntries) ∨
    (0x1000000 ≤ o ∧ o < 0x1000000 + 32 * P.rowmemRows)

/-- A window offset of a memory byte that exists (20_memory.md R72). -/
def memoryOffset (P : Params) (o : Nat) : Prop :=
  (0x20000 ≤ o ∧ o < 0x20000 + 4 * P.cmdWords) ∨ (0x30000 ≤ o ∧ o < 0x30000 + 4 * P.idxEntries) ∨
    (0x1000000 ≤ o ∧ o < 0x1000000 + 32 * P.rowmemRows)

/-- The plane words of a group, `b[0]` first (00_scope.md R11). -/
def planeWord (g : Grp64) : Fin 4 → Word
  | 0 => g.b0
  | 1 => g.b1
  | 2 => g.b2
  | 3 => g.b3

/-- A group with one plane word replaced (00_scope.md R11). -/
def withPlane (g : Grp64) (v : Word) : Fin 4 → Grp64
  | 0 => { g with b0 := v }
  | 1 => { g with b1 := v }
  | 2 => { g with b2 := v }
  | 3 => { g with b3 := v }

/-- A bit as a number. -/
def bitAt (b : Bool) (k : Nat) : Nat := if b then 2 ^ k else 0

/-- A descriptor as the host reads it: base in bits 31:0, rnum in bits 62:32, valid in bit 63 (10_state.md R49). -/
def descNumber (d : Desc) : Nat := d.base.toNat + d.rnum.toNat * 2 ^ 32 + bitAt d.valid 63

/-- The control registers: window offset and the 64 bits the host reads there, reserved bits 0 (10_state.md R38 to R49). -/
def controlRegisters (s : State) : List (Nat × Nat) :=
  [(0x000, 0x0000000136314647),
   (0x008, s.params.rowmemRows + s.params.cmdWords * 2 ^ 32 + s.params.idxEntries * 2 ^ 48),
   (0x010, 0),
   (0x018, bitAt s.status.busy 0 + bitAt s.status.done 1 + bitAt s.status.fault 2 + bitAt s.status.allocfail 3 +
     bitAt s.status.herr 4),
   (0x020, bitAt s.irqEn.done 1 + bitAt s.irqEn.fault 2 + bitAt s.irqEn.allocfail 3 + bitAt s.irqEn.herr 4),
   (0x028, s.cpc.toNat), (0x030, s.faultCode.toNat), (0x038, s.faultPc.toNat), (0x040, s.faultInsn.toNat),
   (0x048, s.faultInfo.toNat), (0x050, s.retired.toNat), (0x060, descNumber (getB s 0)), (0x068, descNumber (getB s 1)),
   (0x070, descNumber (getB s 2)), (0x078, descNumber (getB s 3))]

end Sys2Proof.Claims

open Sys2Proof Sys2Proof.Machine Sys2Proof.Claims

/-! ### Reset -/

/-- `State.reset` is a good state: the descriptors (10_state.md R36), the memory (20_memory.md R70), BUSY excluding FAULT and
DONE (10_state.md R41), and FAULT_CODE at most 0x0B and nonzero where FAULT is set (10_state.md R44), each as `Inv` says. That
the memory is a list in a canonical form, empty at reset, is the model's choice (notes/assumptions/2.md). -/
def Obligations.ResetIsAGoodState : Prop := Inv State.reset

/-- 10_state.md R53 and 70_reset_and_hazards.md R380: a RESET turn, in any state and whatever the run and the draw, leaves
every element at the value of the table. That the content the table calls unspecified comes as a draw with the turn, and
that G and M take it, is the model's choice (notes/assumptions/9.md); what R54 asks of it is the second clause: every
content of G, M and the memories is that of some draw. -/
def Obligations.ResetGivesTheTableValues : Prop :=
  (∀ (s : State) (rest : List Input) (draw : ResetDraw), s.inputs = .reset draw :: rest →
    ∃ t, step s = .next t ∧
      (∀ i, getX t i = 0) ∧ t.g = draw.g ∧ t.m = draw.m ∧
      (∀ i, getB t i = { valid := false, base := 0, rnum := 0 }) ∧
      t.cpc = 0 ∧ slotWord t .idReg = 0x0000000136314647#64 ∧ slotWord t .paramReg = slotWord s .paramReg ∧
      slotWord t .ctrl = 0 ∧ slotWord t .statusReg = 0 ∧ slotWord t .irqEnReg = 0 ∧
      t.faultCode = 0 ∧ t.faultPc = 0 ∧ t.faultInsn = 0 ∧ t.faultInfo = 0 ∧ t.retired = 0 ∧ irqOutput t = false) ∧
  (∀ (s : State) (rest : List Input) (g : Vector Grp64 16) (m : Vector Mat64 8) (mem : Memory),
    memWf mem = true → memMapped s.params mem = true →
    ∃ (draw : ResetDraw) (t : State), step { s with inputs := .reset draw :: rest } = .next t ∧
      t.g = g ∧ t.m = m ∧ t.mem = mem)

/-! ### Encoding and decoding -/

/-- Decoding the word of any instruction gives the instruction back, every operand at every value (30_encoding.md R107,
R108). -/
def Obligations.DecodeAfterEncodeIsTheInstruction : Prop := ∀ i : Instr, decode (encode i) = .ok i

/-- A word that decodes to an instruction is that instruction's word: every word has at most one meaning and no bit of
it is dropped (30_encoding.md R107, R110; 92_eei_decisions.md D13). -/
def Obligations.EncodeAfterDecodeIsTheWord : Prop := ∀ (w : Word32) (i : Instr), decode w = .ok i → encode i = w

/-- The decode procedure of 30_encoding.md R107 over the match and mask columns of R108. -/
def Obligations.DecodeFollowsMatchAndMask : Prop :=
  ∀ w : Word32,
    ((∀ p ∈ opcodeColumns, w &&& 0xFF000000 ≠ p.1) → decode w = .error (.illegalOpcode (w.extractLsb' 24 8))) ∧
    (∀ p ∈ opcodeColumns, w &&& 0xFF000000 = p.1 →
      (w &&& p.2 = p.1 → ∃ i, decode w = .ok i) ∧
      (w &&& p.2 ≠ p.1 → decode w = .error (.reservedField ((w ^^^ p.1) &&& p.2))))

/-- The eight worked encodings of 30_encoding.md R113. -/
def Obligations.WorkedEncodings : Prop :=
  (encode (.xli 1 7 0) = 0x02100007 ∧ decode 0x02100007 = .ok (.xli 1 7 0)) ∧
  (encode (.xli 2 0xFFFF 3) = 0x0223FFFF ∧ decode 0x0223FFFF = .ok (.xli 2 0xFFFF 3)) ∧
  (encode (.fmul 3 1 2) = 0x11312000 ∧ decode 0x11312000 = .ok (.fmul 3 1 2)) ∧
  (encode (.gfmam 2 0 3 2) = 0x31203200 ∧ decode 0x31203200 = .ok (.gfmam 2 0 3 2)) ∧
  (encode (.mgj 1 2 1) = 0x46121000 ∧ decode 0x46121000 = .ok (.mgj 1 2 1)) ∧
  (encode (.bfmad 1 0 1 5) = 0x5E101500 ∧ decode 0x5E101500 = .ok (.bfmad 1 0 1 5)) ∧
  (encode .halt = 0x01000000 ∧ decode 0x01000000 = .ok .halt) ∧
  decode 0x40800000 = .error (.reservedField 0x00800000)

/-! ### The step -/

/-- A turn of the sequencer runs the decoded instruction: step is exec, and nothing is added around it; while BUSY = 0 the
turn does nothing (45_sequencer.md R320). A turn of the host is its access, and the run goes on after it (10_state.md R30,
20_memory.md R78). That the turns come as a list of State, are taken off it one by one, and leave the sequencer the turn
where none is listed, is the model's choice (notes/assumptions/6.md). -/
def Obligations.StepRunsTheDecodedInstruction : Prop :=
  (∀ (s : State) (i : Instr), s.inputs = [] → s.status.busy = true → s.cpc.toNat < s.params.cmdWords →
    decode (memLoad32 s.mem (0x20000 + 4 * s.cpc.toNat)) = .ok i → step s = exec i s) ∧
  (∀ (s : State) (i : Instr) (rest : List Input), s.inputs = .sequencer :: rest → s.status.busy = true →
    s.cpc.toNat < s.params.cmdWords → decode (memLoad32 s.mem (0x20000 + 4 * s.cpc.toNat)) = .ok i →
    step s = exec i { s with inputs := rest }) ∧
  (∀ s : State, s.inputs = [] → s.status.busy = false → step s = .next s) ∧
  (∀ (s : State) (rest : List Input), s.inputs = .sequencer :: rest → s.status.busy = false →
    step s = .next { s with inputs := rest }) ∧
  (∀ (s : State) (access : HostAccess) (rest : List Input), s.inputs = .host access :: rest →
    step s = .next (hostAccess { s with inputs := rest } access))

/-- 60_exceptions.md R343: CMD_OVERRUN, on a turn of the sequencer, listed or not. That the turns are a list of State, and
that a listed one is taken off it, is the model's choice (notes/assumptions/6.md). -/
def Obligations.FetchPastCommandMemoryFaults : Prop :=
  ∀ s : State, s.status.busy = true → s.params.cmdWords ≤ s.cpc.toNat →
    (s.inputs = [] → step s = .next (faulted s 0x0B (s.cpc.setWidth 64) 0)) ∧
    (∀ rest, s.inputs = .sequencer :: rest →
      step s = .next (faulted { s with inputs := rest } 0x0B (s.cpc.setWidth 64) 0))

/-- A fetched word that is no instruction faults with ILLEGAL_OPCODE or RESERVED_FIELD, the offending value in
FAULT_INFO and the word in FAULT_INSN (30_encoding.md R107, 60_exceptions.md R340, R342), on a turn of the sequencer, listed
or not. That the turns are a list of State, and that a listed one is taken off it, is the model's choice
(notes/assumptions/6.md). -/
def Obligations.UndecodableWordFaults : Prop :=
  ∀ (s : State) (w : Word32), s.status.busy = true → s.cpc.toNat < s.params.cmdWords →
    w = memLoad32 s.mem (0x20000 + 4 * s.cpc.toNat) →
    (∀ op, decode w = .error (.illegalOpcode op) →
      (s.inputs = [] → step s = .next (faulted s 0x01 (op.setWidth 64) w)) ∧
      (∀ rest, s.inputs = .sequencer :: rest →
        step s = .next (faulted { s with inputs := rest } 0x01 (op.setWidth 64) w))) ∧
    (∀ bits, decode w = .error (.reservedField bits) →
      (s.inputs = [] → step s = .next (faulted s 0x02 (bits.setWidth 64) w)) ∧
      (∀ rest, s.inputs = .sequencer :: rest →
        step s = .next (faulted { s with inputs := rest } 0x02 (bits.setWidth 64) w)))

/-! ### Every command -/

/-- 00_scope.md R15: every command either completes (CPC and RETIRED move by 1, the fault registers keep their values)
or faults, with no effect but the fault-recording state. A completing command leaves the parameters, IRQ_EN, the
environment's fields and every STATUS bit alone, but for HALT and a BCFG that fails. -/
def Obligations.CommandCompletesOrFaultsWithNoOtherEffect : Prop :=
  ∀ (i : Instr) (s t : State), exec i s = .next t →
    (∃ (code : BitVec 8) (info : Word), 0x03 ≤ code.toNat ∧ code.toNat ≤ 0x0A ∧ t = faulted s code info (encode i)) ∨
    (t.cpc = s.cpc + 1 ∧ t.retired = s.retired + 1 ∧ t.faultCode = s.faultCode ∧ t.faultPc = s.faultPc ∧
      t.faultInsn = s.faultInsn ∧ t.faultInfo = s.faultInfo ∧ t.irqEn = s.irqEn ∧ t.params = s.params ∧
      t.inputs = s.inputs ∧ t.readData = s.readData ∧ t.draws = s.draws + drawsTaken s i ∧
      (i = .halt → t.status = { s.status with busy := false, done := true }) ∧
      (∀ d a b, i = .bcfg d a b → t.status = s.status ∨ t.status = { s.status with allocfail := true }) ∧
      (i ≠ .halt → (∀ d a b, i ≠ .bcfg d a b) → t.status = s.status))

/-- The register frame of every command: each X, G and M register and each descriptor but the ones it names as
destinations is unchanged, whether it completes or faults (10_state.md R31, R33, R34, R35; 30_encoding.md R102). -/
def Obligations.CommandChangesOnlyItsDestinations : Prop :=
  ∀ (i : Instr) (s t : State), exec i s = .next t →
    (∀ j, xDest i ≠ some j → getX t j = getX s j) ∧
    (∀ j, gDest i ≠ some j → getG t j = getG s j) ∧
    (∀ j, j ∉ mDests i → getM t j = getM s j) ∧
    (∀ j, bDest i ≠ some j → getB t j = getB s j)

/-- Descriptor safety (44_block.md R282) and the memory frame of every command: every byte outside the rows of the block
matrix it names as destination reads as before, that matrix being valid; so commands never write command memory or index
memory (20_memory.md R70). -/
def Obligations.CommandStoresOnlyInItsBlockMatrix : Prop :=
  ∀ (i : Instr) (s t : State), exec i s = .next t →
    (∀ a, (∀ d, rowsDest i = some d → (getB s d).valid = true → ¬ inRows (base s d) (rnum s d) a) →
      memByte t.mem a = memByte s.mem a) ∧
    (∀ a, ¬ inValidRows s a → memByte t.mem a = memByte s.mem a) ∧
    (∀ a < 0x1000000, memByte t.mem a = memByte s.mem a)

/-! ### Invariants of every step -/

/-- The descriptor invariant of 10_state.md R36 is kept by every step. -/
def Obligations.StepKeepsTheDescriptorInvariant : Prop :=
  ∀ s t : State, DescInv s → step s = .next t → DescInv t

/-- Every step keeps the memory canonical and within the bytes that exist (20_memory.md R70), host accesses and resets
included. The canonical form is the model's representation (notes/assumptions/2.md). -/
def Obligations.StepKeepsTheMemoryInvariant : Prop :=
  ∀ s t : State, MemInv s → step s = .next t → MemInv t

/-- While a run is in progress neither FAULT nor DONE is set, and FAULT_CODE holds 0 or an assigned code, a code where
FAULT is set: every step keeps both (10_state.md R41, R44; 45_sequencer.md R321; 60_exceptions.md R340, R342). -/
def Obligations.StepKeepsTheRunAndFaultInvariant : Prop :=
  ∀ s t : State, RunInv s → FaultInv s → step s = .next t → RunInv t ∧ FaultInv t

/-- No step stops where the descriptors name rows that exist: the unit is never stuck (93_implementation_defined.md,
"No behaviour of the unit is stuck"). -/
def Obligations.StepAlwaysAnswersInRange : Prop :=
  ∀ s : State, descsInRange s → ∃ t, step s = .next t

/-- 70_reset_and_hazards.md R387: a run that starts at CPC = c ends after at most max(0, CMD_WORDS - c) + 1 steps. No turn is
listed, so the sequencer has every one (notes/assumptions/6.md). -/
def Obligations.EveryRunEndsWithinTheBound : Prop :=
  ∀ s : State, s.inputs = [] → s.status.busy = true → descsInRange s → descsDisjoint s →
    ∃ k t, k ≤ s.params.cmdWords - s.cpc.toNat + 1 ∧ runFor k s = .next t ∧ t.status.busy = false ∧
      (t.status.done = true ∨ t.status.fault = true)

/-! ### Sequencer and X registers -/

/-- 45_sequencer.md R322, R323, R326: NOP, HALT and XMOV. -/
def Obligations.NopHaltXmovResults : Prop :=
  ∀ (s : State) (d a : XReg),
    exec .nop s = .next (advanced s) ∧
    exec .halt s = .next { advanced s with status := { s.status with busy := false, done := true } } ∧
    setsX (.xmov d a) s d (getX s a)

/-- 45_sequencer.md R324, R325 and 30_encoding.md R106, bit by bit: XLI and XINS. -/
def Obligations.ImmediateBitsLandAtTheirHalfword : Prop :=
  ∀ (s : State) (d : XReg) (imm16 : BitVec 16) (h : BitVec 2),
    setsXBits (.xli d imm16 h) s d
      (fun j => 16 * h.toNat ≤ j ∧ j < 16 * h.toNat + 16 ∧ imm16.getLsbD (j - 16 * h.toNat) = true) ∧
    setsXBits (.xins d imm16 h) s d
      (fun j => if 16 * h.toNat ≤ j ∧ j < 16 * h.toNat + 16 then imm16.getLsbD (j - 16 * h.toNat) = true
                else (getX s d).getLsbD j = true)

/-! ### Field -/

/-- 41_field.md R149: the multiplication table. -/
def Obligations.MultiplicationTable : Prop :=
  ∀ a b : Fin 16, (gfMul (BitVec.ofFin a) (BitVec.ofFin b)).toNat = (mulTable.getD a.val []).getD b.val 0

/-- 41_field.md R146 and R148: the field laws, the squaring inverse, and the powers of x, which run through all 15 nonzero
elements and return to 1. -/
def Obligations.FieldLaws : Prop :=
  (∀ a b : Elem, gfAdd a b = gfAdd b a ∧ gfAdd a a = 0 ∧ gfMul a 1 = a ∧ gfMul 0 a = 0) ∧
  (∀ a : Elem, a ≠ 0 → gfMul a (gfInv a) = 1 ∧
    ∀ a2 a4 a8, a2 = gfMul a a → a4 = gfMul a2 a2 → a8 = gfMul a4 a4 → gfInv a = gfMul (gfMul a8 a4) a2) ∧
  (List.range 16).map (fun n => (Nat.repeat (gfMul 2) n (1 : Elem)).toNat) =
    [1, 2, 4, 8, 3, 6, 12, 11, 5, 10, 7, 14, 15, 13, 9, 1]

/-- 41_field.md R144, R145, R147: FADD, FMUL and FINV, with their faults in order. -/
def Obligations.FieldCommandResults : Prop :=
  ∀ (s : State) (d a b : XReg),
    ((getX s a).toNat ≤ 15 → (getX s b).toNat ≤ 15 →
      setsX (.fadd d a b) s d ((gfAdd ((getX s a).setWidth 4) ((getX s b).setWidth 4)).setWidth 64) ∧
      setsX (.fmul d a b) s d ((gfMul ((getX s a).setWidth 4) ((getX s b).setWidth 4)).setWidth 64)) ∧
    (15 < (getX s a).toNat → faults (.fadd d a b) s 0x09 (getX s a) ∧ faults (.fmul d a b) s 0x09 (getX s a) ∧
      faults (.finv d a) s 0x09 (getX s a)) ∧
    ((getX s a).toNat ≤ 15 → 15 < (getX s b).toNat →
      faults (.fadd d a b) s 0x09 (getX s b) ∧ faults (.fmul d a b) s 0x09 (getX s b)) ∧
    (getX s a = 0 → faults (.finv d a) s 0x0A 0) ∧
    ((getX s a).toNat ≤ 15 → getX s a ≠ 0 →
      ∃ e : Elem, setsX (.finv d a) s d (e.setWidth 64) ∧ gfMul ((getX s a).setWidth 4) e = 1)

/-! ### Groups -/

/-- 42_group.md R160: scale is the lanewise product, for the plane equations the model computes with. -/
def Obligations.ScaleIsTheLanewiseProduct : Prop :=
  ∀ (g : Grp64) (c : Elem), ∀ i < 64, lane (scale g c) i = gfMul (lane g i) c

/-- 42_group.md R164, R165, R176: GZERO, GCOPY and GADD, lane by lane. -/
def Obligations.GroupZeroCopyAddLanes : Prop :=
  ∀ (s : State) (d a : GReg),
    setsG (.gzero d) s d (fun _ => 0) ∧
    setsG (.gcopy d a) s d (fun j => lane (getG s a) j) ∧
    setsG (.gadd d a) s d (fun j => gfAdd (lane (getG s d) j) (lane (getG s a) j))

/-- 42_group.md R172, R174: GZSUB and GMIX, lane by lane. -/
def Obligations.GroupMaskAndMixLanes : Prop :=
  ∀ (s : State) (d a : GReg) (m : XReg),
    setsG (.gzsub d m) s d (fun j => if (getX s m).getLsbD j then lane (getG s d) j else 0) ∧
    setsG (.gmix d a m) s d (fun j => if (getX s m).getLsbD j then lane (getG s d) j else lane (getG s a) j)

/-- 42_group.md R170, R171, R173: GSET, GADDAT and GZAT touch lane i alone; BAD_INDEX comes before BAD_ELEM. -/
def Obligations.GroupOneLaneResults : Prop :=
  ∀ (s : State) (d : GReg) (a b : XReg),
    ((getX s a).toNat ≤ 63 → (getX s b).toNat ≤ 15 →
      setsG (.gset d a b) s d
        (fun j => if j = (getX s a).toNat then (getX s b).setWidth 4 else lane (getG s d) j) ∧
      setsG (.gaddat d a b) s d
        (fun j => if j = (getX s a).toNat then gfAdd (lane (getG s d) j) ((getX s b).setWidth 4)
                  else lane (getG s d) j)) ∧
    ((getX s a).toNat ≤ 63 →
      setsG (.gzat d a) s d (fun j => if j = (getX s a).toNat then 0 else lane (getG s d) j)) ∧
    (63 < (getX s a).toNat → faults (.gset d a b) s 0x06 (getX s a) ∧ faults (.gaddat d a b) s 0x06 (getX s a) ∧
      faults (.gzat d a) s 0x06 (getX s a)) ∧
    ((getX s a).toNat ≤ 63 → 15 < (getX s b).toNat →
      faults (.gset d a b) s 0x09 (getX s b) ∧ faults (.gaddat d a b) s 0x09 (getX s b))

/-- 42_group.md R177, R179, R180: GSCALE, GFMA and GFMAM, lane by lane, and their BAD_ELEM. -/
def Obligations.GroupScaleAndMultiplyAddLanes : Prop :=
  ∀ (s : State) (d a : GReg) (b c : XReg),
    ((getX s b).toNat ≤ 15 →
      setsG (.gscale d a b) s d (fun j => gfMul (lane (getG s a) j) ((getX s b).setWidth 4)) ∧
      setsG (.gfma d a b) s d
        (fun j => gfAdd (lane (getG s d) j) (gfMul (lane (getG s a) j) ((getX s b).setWidth 4))) ∧
      setsG (.gfmam d a b c) s d
        (fun j => if (getX s c).getLsbD j
                  then gfAdd (lane (getG s d) j) (gfMul (lane (getG s a) j) ((getX s b).setWidth 4))
                  else lane (getG s d) j)) ∧
    (15 < (getX s b).toNat → faults (.gscale d a b) s 0x09 (getX s b) ∧ faults (.gfma d a b) s 0x09 (getX s b) ∧
      faults (.gfmam d a b c) s 0x09 (getX s b))

/-- 42_group.md R178, R181: GSCALEI and GFMAI take their scalar from lane X[c] of G[b]. -/
def Obligations.GroupIndexedScalarLanes : Prop :=
  ∀ (s : State) (d a b : GReg) (c : XReg),
    ((getX s c).toNat ≤ 63 →
      setsG (.gscalei d a b c) s d (fun j => gfMul (lane (getG s a) j) (lane (getG s b) (getX s c).toNat)) ∧
      setsG (.gfmai d a b c) s d
        (fun j => gfAdd (lane (getG s d) j) (gfMul (lane (getG s a) j) (lane (getG s b) (getX s c).toNat)))) ∧
    (63 < (getX s c).toNat → faults (.gscalei d a b c) s 0x06 (getX s c) ∧ faults (.gfmai d a b c) s 0x06 (getX s c))

/-- 42_group.md R166, R167, R168, R161: GEQ, GZPOS and GNZPOS in terms of lanes. -/
def Obligations.GroupComparisonsReadLanes : Prop :=
  ∀ (s : State) (d : XReg) (a b : GReg),
    ((∀ j < 64, lane (getG s a) j = lane (getG s b) j) → setsX (.geq d a b) s d 1) ∧
    ((∃ j < 64, lane (getG s a) j ≠ lane (getG s b) j) → setsX (.geq d a b) s d 0) ∧
    setsXBits (.gzpos d a) s d (fun j => lane (getG s a) j = 0) ∧
    setsXBits (.gnzpos d a) s d (fun j => lane (getG s a) j ≠ 0)

/-- 42_group.md R169, R175: GGET reads one lane, GFNZ finds the first nonzero lane or answers 64. -/
def Obligations.GroupLaneReads : Prop :=
  ∀ (s : State) (d : XReg) (a : GReg) (b : XReg),
    ((getX s b).toNat ≤ 63 → setsX (.gget d a b) s d ((lane (getG s a) (getX s b).toNat).setWidth 64)) ∧
    (63 < (getX s b).toNat → faults (.gget d a b) s 0x06 (getX s b)) ∧
    (∀ i < 64, lane (getG s a) i ≠ 0 → (∀ j < i, lane (getG s a) j = 0) →
      setsX (.gfnz d a) s d (BitVec.ofNat 64 i)) ∧
    ((∀ j < 64, lane (getG s a) j = 0) → setsX (.gfnz d a) s d 64)

/-- GRAND, MRAND and BRAND complete and write their destination with draws: the n-th draw is the free value
`Config.entropy n`, whatever it is (42_group.md R163, 43_matrix.md R223, 44_block.md R269; notes/assumptions/3.md). Plane p of a
draw is its bits 64·p+63 to 64·p. -/
def Obligations.RandCommandsWriteDraws : Prop :=
  (∀ (s : State) (d : GReg), ∃ v : Grp64,
    exec (.grand d) s = .next { advanced s with g := s.g.set d v, draws := s.draws + 1 } ∧
    ∀ p : Fin 4, plane v p = (Config.entropy s.draws).extractLsb' (64 * p.val) 64) ∧
  (∀ (s : State) (d : MReg), ∃ v : Mat64,
    exec (.mrand d) s = .next { advanced s with m := s.m.set d v, draws := s.draws + 64 } ∧
    ∀ (r : Fin 64) (p : Fin 4), plane v[r] p = (Config.entropy (s.draws + r.val)).extractLsb' (64 * p.val) 64) ∧
  (∀ (s : State) (d : BReg), blockReady s d → memWf s.mem = true → ∃ mem' : Memory,
    exec (.brand d) s = .next { advanced s with mem := mem', draws := s.draws + rnum s d } ∧
    (∀ r < rnum s d, ∀ p : Fin 4,
      plane (rowLoad mem' (base s d + r)) p = (Config.entropy (s.draws + r)).extractLsb' (64 * p.val) 64) ∧
    (∀ a, ¬ inRows (base s d) (rnum s d) a → memByte mem' a = memByte s.mem a))

/-! ### Fixed matrices -/

/-- 43_matrix.md R221, R222, R224: MZERO, MIDENT and MCOPY, entry by entry. -/
def Obligations.MatrixZeroIdentCopyEntries : Prop :=
  ∀ (s : State) (d a : MReg),
    setsM (.mzero d) s d (fun _ _ => 0) ∧
    setsM (.mident d) s d (fun r c => if r = c then 1 else 0) ∧
    setsM (.mcopy d a) s d (fun r c => entry (getM s a) r c)

/-- 43_matrix.md R225, R230, R231: MSWAP, MGETR and MPUTR, and their BAD_INDEX. -/
def Obligations.MatrixRowCommandResults : Prop :=
  ∀ (s : State) (d : MReg) (a b : XReg) (g : GReg),
    (∀ i j : Fin 64, (getX s a).toNat = i.val → (getX s b).toNat = j.val →
      setsM (.mswap d a b) s d
        (fun r c => if r = j then entry (getM s d) i c else if r = i then entry (getM s d) j c
                    else entry (getM s d) r c)) ∧
    (∀ i : Fin 64, (getX s a).toNat = i.val →
      setsG (.mgetr g d a) s g (fun j => lane (getM s d)[i] j) ∧
      setsM (.mputr d a g) s d (fun r c => if r = i then lane (getG s g) c.val else entry (getM s d) r c)) ∧
    (63 < (getX s a).toNat → faults (.mswap d a b) s 0x06 (getX s a) ∧ faults (.mgetr g d a) s 0x06 (getX s a) ∧
      faults (.mputr d a g) s 0x06 (getX s a)) ∧
    ((getX s a).toNat ≤ 63 → 63 < (getX s b).toNat → faults (.mswap d a b) s 0x06 (getX s b))

/-- 43_matrix.md R220, R226: MMUL is the matrix product of the old values, whatever the registers. -/
def Obligations.MmulIsTheMatrixProduct : Prop :=
  ∀ (s : State) (d a b : MReg),
    setsM (.mmul d a b) s d
      (fun r c => xorAll ((List.finRange 64).map fun k => gfMul (entry (getM s a) r k) (entry (getM s b) k c)))

/-- 43_matrix.md R229: MSYM. -/
def Obligations.MsymTestsSymmetry : Prop :=
  ∀ (s : State) (d : XReg) (a : MReg),
    ((∀ i j : Fin 64, i < j → entry (getM s a) i j = entry (getM s a) j i) → setsX (.msym d a) s d 1) ∧
    ((∃ i j : Fin 64, i < j ∧ entry (getM s a) i j ≠ entry (getM s a) j i) → setsX (.msym d a) s d 0)

/-- MGJ: ALIAS where the two M registers are one; else it completes, writing both matrices and the mask of the 64 pivot
steps in order (43_matrix.md R227). What one pivot step does is `PivotStepFollowsTheAlgorithm`. -/
def Obligations.MgjWritesItsThreeResults : Prop :=
  ∀ (s : State) (d : XReg) (a b : MReg),
    (a = b → faults (.mgj d a b) s 0x05 (BitVec.ofNat 64 a.val)) ∧
    (a ≠ b → ∀ r, r = (List.finRange 64).foldl pivotStep { m := getM s a, c := getM s b, mask := 0 } →
      exec (.mgj d a b) s =
        .next { advanced s with m := (s.m.set a r.m).set b r.c, x := s.x.set d r.mask })

/-- One pivot step of 43_matrix.md R227: no pivot at or below row i, nothing moves; else, with p the first such row, row i
becomes the normalised pivot row, every other old row j has its multiple of it added (the multiplier read before the row
changes) and old row i lands at p; the companion takes the same operations and the mask gets bit i. -/
def Obligations.PivotStepFollowsTheAlgorithm : Prop :=
  ∀ (t : Elim) (i : Fin 64),
    ((∀ r, i ≤ r → entry t.m r i = 0) → pivotStep t i = t) ∧
    (∀ p : Fin 64, i ≤ p → entry t.m p i ≠ 0 → (∀ r, i ≤ r → r < p → entry t.m r i = 0) →
      ∀ (inv : Elem), gfMul (entry t.m p i) inv = 1 →
        (pivotStep t i).m[i] = scale t.m[p] inv ∧ (pivotStep t i).c[i] = scale t.c[p] inv ∧
        (∀ j, j ≠ p →
          (pivotStep t i).m[if j = i then p else j] = gxor t.m[j] (scale (scale t.m[p] inv) (entry t.m j i)) ∧
          (pivotStep t i).c[if j = i then p else j] = gxor t.c[j] (scale (scale t.c[p] inv) (entry t.m j i))) ∧
        (pivotStep t i).mask = t.mask ||| (1#64 <<< i.val))

/-- 43_matrix.md R228 item 2, and from item 3 that a full mask means m1 = IDENT: every pivoted column is a unit
column. -/
def Obligations.PivotedColumnsAreUnitColumns : Prop :=
  ∀ m c : Mat64,
    (∀ i : Fin 64, (gaussJordan m c).mask.getLsbD i.val = true →
      ∀ j : Fin 64, entry (gaussJordan m c).m j i = if j = i then 1 else 0) ∧
    ((gaussJordan m c).mask = ones → (gaussJordan m c).m = identMatrix)

/-- 43_matrix.md R228 item 1: one invertible E takes the matrix and the companion to their results, so a companion that
starts as IDENT ends as E. -/
def Obligations.GaussJordanIsOneInvertibleTransform : Prop :=
  ∀ m c : Mat64, ∃ e f : Mat64, mmul f e = identMatrix ∧ mmul e f = identMatrix ∧
    (gaussJordan m c).m = mmul e m ∧ (gaussJordan m c).c = mmul e c

/-! ### Block matrices -/

/-- 44_block.md R260: BCFG places a nonempty range inside ROWMEM that overlaps no other valid descriptor, losing no bit of
base or rnum; else it empties the descriptor and sets ALLOCFAIL. Either way it completes. -/
def Obligations.BcfgPlacesOrFails : Prop :=
  ∀ (s : State) (d : BReg) (a b : XReg) (ok : Prop),
    (ok ↔ 1 ≤ (getX s b).toNat ∧ (getX s a).toNat + (getX s b).toNat ≤ s.params.rowmemRows ∧
      ∀ j, j ≠ d → (getB s j).valid = true →
        (getX s a).toNat + (getX s b).toNat ≤ base s j ∨ base s j + rnum s j ≤ (getX s a).toNat) →
    (ok → ∃ v : Desc, v.valid = true ∧ v.base.toNat = (getX s a).toNat ∧ v.rnum.toNat = (getX s b).toNat ∧
      exec (.bcfg d a b) s = .next { advanced s with b := s.b.set d v }) ∧
    (¬ ok → exec (.bcfg d a b) s = .next { advanced s with
      b := s.b.set d { valid := false, base := 0, rnum := 0 }, status := { s.status with allocfail := true } })

/-- 44_block.md R261: BFREE empties the descriptor, valid or not, and no row changes. -/
def Obligations.BfreeEmptiesTheDescriptor : Prop :=
  ∀ (s : State) (d : BReg),
    exec (.bfree d) s = .next { advanced s with b := s.b.set d { valid := false, base := 0, rnum := 0 } }

/-- 44_block.md R264, R265: BGETR and BPUTR, and their faults in order. -/
def Obligations.BlockRowCommandResults : Prop :=
  ∀ (s : State) (d : BReg) (a : XReg) (g : GReg),
    (blockReady s d → (getX s a).toNat < rnum s d → memWf s.mem = true →
      setsG (.bgetr g d a) s g (fun j => elt s d (getX s a).toNat j) ∧
      setsRows (.bputr d a g) s (base s d + (getX s a).toNat) 1 (fun _ j => lane (getG s g) j)) ∧
    ((getB s d).valid = false →
      faults (.bgetr g d a) s 0x03 (BitVec.ofNat 64 d.val) ∧ faults (.bputr d a g) s 0x03 (BitVec.ofNat 64 d.val)) ∧
    ((getB s d).valid = true → rnum s d ≤ (getX s a).toNat →
      faults (.bgetr g d a) s 0x07 (getX s a) ∧ faults (.bputr d a g) s 0x07 (getX s a))

/-- 44_block.md R266, R267: BAT and BSETAT on one element, and their faults in order. -/
def Obligations.BlockElementCommandResults : Prop :=
  ∀ (s : State) (e : XReg) (d : BReg) (a b c : XReg),
    (blockReady s d → (getX s a).toNat < rnum s d → (getX s b).toNat ≤ 63 →
      setsX (.bat e d a b) s e ((elt s d (getX s a).toNat (getX s b).toNat).setWidth 64) ∧
      ((getX s c).toNat ≤ 15 → memWf s.mem = true →
        setsRows (.bsetat d a b c) s (base s d + (getX s a).toNat) 1
          (fun _ j => if j = (getX s b).toNat then (getX s c).setWidth 4 else elt s d (getX s a).toNat j)) ∧
      (15 < (getX s c).toNat → faults (.bsetat d a b c) s 0x09 (getX s c))) ∧
    ((getB s d).valid = false →
      faults (.bat e d a b) s 0x03 (BitVec.ofNat 64 d.val) ∧ faults (.bsetat d a b c) s 0x03 (BitVec.ofNat 64 d.val)) ∧
    ((getB s d).valid = true → rnum s d ≤ (getX s a).toNat →
      faults (.bat e d a b) s 0x07 (getX s a) ∧ faults (.bsetat d a b c) s 0x07 (getX s a)) ∧
    ((getB s d).valid = true → (getX s a).toNat < rnum s d → 63 < (getX s b).toNat →
      faults (.bat e d a b) s 0x06 (getX s b) ∧ faults (.bsetat d a b c) s 0x06 (getX s b))

/-- 44_block.md R268, R270: BZERO and BCOPY on every row, nothing outside the descriptor's rows. -/
def Obligations.BlockZeroAndCopyRows : Prop :=
  ∀ (s : State) (d a : BReg),
    (blockReady s d → memWf s.mem = true → setsRows (.bzero d) s (base s d) (rnum s d) (fun _ _ => 0)) ∧
    (pairReady s d a → setsRows (.bcopy d a) s (base s d) (rnum s d) (fun r j => elt s a r j))

/-- 44_block.md R271: BGRAM writes the transpose times the matrix, its old content discarded. -/
def Obligations.BgramIsTheGramian : Prop :=
  ∀ (s : State) (d : MReg) (a : BReg), blockReady s a →
    setsM (.bgram d a) s d
      (fun i j => xorAll ((List.range (rnum s a)).map fun r => gfMul (elt s a r i.val) (elt s a r j.val)))

/-- 44_block.md R282, Gramian symmetry: after BGRAM, MSYM of the result gives 1. -/
def Obligations.GramianIsSymmetric : Prop :=
  ∀ (s t : State) (d : MReg) (a : BReg) (x : XReg), blockReady s a → exec (.bgram d a) s = .next t →
    setsX (.msym x d) t x 1

/-- 44_block.md R272, R273: BZCM and BNZCM, column by column. -/
def Obligations.BlockColumnMasks : Prop :=
  ∀ (s : State) (d : XReg) (a : BReg), blockReady s a →
    setsXBits (.bzcm d a) s d (fun j => ∀ r < rnum s a, elt s a r j = 0) ∧
    setsXBits (.bnzcm d a) s d (fun j => ∃ r < rnum s a, elt s a r j ≠ 0)

/-- 44_block.md R274, R275: BZCMS over the listed rows, and its faults in order: the window before the entries, the first
bad entry in list order. -/
def Obligations.BzcmsOverTheListedRows : Prop :=
  ∀ (s : State) (d : XReg) (a : BReg) (b c : XReg), blockReady s a →
    ((getX s b).toNat + (getX s c).toNat ≤ s.params.idxEntries →
      (∀ k < (getX s c).toNat, (idxRead s ((getX s b).toNat + k)).toNat < rnum s a) →
      setsXBits (.bzcms d a b c) s d
        (fun j => ∀ k < (getX s c).toNat, elt s a (idxRead s ((getX s b).toNat + k)).toNat j = 0)) ∧
    (s.params.idxEntries < (getX s b).toNat + (getX s c).toNat → faults (.bzcms d a b c) s 0x08 (getX s b)) ∧
    ((getX s b).toNat + (getX s c).toNat ≤ s.params.idxEntries →
      ∀ k < (getX s c).toNat, rnum s a ≤ (idxRead s ((getX s b).toNat + k)).toNat →
        (∀ l < k, (idxRead s ((getX s b).toNat + l)).toNat < rnum s a) →
        faults (.bzcms d a b c) s 0x07 ((idxRead s ((getX s b).toNat + k)).setWidth 64))

/-- 44_block.md R276, R277, R278: BFMA, BFMAD and BDFMA, element by element, from the values before the command. -/
def Obligations.BlockMultiplyAddRows : Prop :=
  ∀ (s : State) (d a : BReg) (b : MReg) (c : XReg), pairReady s d a →
    setsRows (.bfma d a b) s (base s d) (rnum s d) (fun r j => gfAdd (elt s d r j) (prodElt s a b r j)) ∧
    setsRows (.bfmad d a b c) s (base s d) (rnum s d)
      (fun r j => if (getX s c).getLsbD j then gfAdd (elt s d r j) (prodElt s a b r j) else elt s d r j) ∧
    setsRows (.bdfma d a b c) s (base s d) (rnum s d)
      (fun r j => if (getX s c).getLsbD j then gfAdd (elt s d r j) (prodElt s a b r j) else prodElt s a b r j)

/-- 44_block.md R279, R280: BMIX and BADD, element by element. -/
def Obligations.BlockMixAndAddRows : Prop :=
  ∀ (s : State) (d a : BReg) (b : XReg), pairReady s d a →
    setsRows (.bmix d a b) s (base s d) (rnum s d)
      (fun r j => if (getX s b).getLsbD j then elt s d r j else elt s a r j) ∧
    setsRows (.badd d a) s (base s d) (rnum s d) (fun r j => gfAdd (elt s d r j) (elt s a r j))

/-- 44_block.md R262: a command that names a descriptor that is not valid raises BAD_DESC, the d field before the a
field. -/
def Obligations.InvalidDescriptorFaults : Prop :=
  ∀ (s : State) (k : BReg) (a : BReg) (m : MReg) (x y z : XReg), (getB s k).valid = false →
    (∀ i ∈ [Instr.bzero k, .brand k, .bgram m k, .bzcm x k, .bnzcm x k, .bzcms x k y z, .bcopy k a, .bfma k a m,
        .bfmad k a m x, .bdfma k a m x, .bmix k a x, .badd k a],
      faults i s 0x03 (BitVec.ofNat 64 k.val)) ∧
    ((getB s a).valid = true →
      ∀ i ∈ [Instr.bcopy a k, .bfma a k m, .bfmad a k m x, .bdfma a k m x, .bmix a k x, .badd a k],
        faults i s 0x03 (BitVec.ofNat 64 k.val))

/-- 44_block.md R263: two valid block operands of different row counts raise DIM_MISMATCH. -/
def Obligations.DifferentRowCountsFault : Prop :=
  ∀ (s : State) (d a : BReg) (m : MReg) (x : XReg), (getB s d).valid = true → (getB s a).valid = true →
    (getB s d).rnum ≠ (getB s a).rnum →
    ∀ i ∈ [Instr.bcopy d a, .bfma d a m, .bfmad d a m x, .bdfma d a m x, .bmix d a x, .badd d a],
      faults i s 0x04 (((getB s d).rnum.setWidth 64 <<< 32) ||| (getB s a).rnum.setWidth 64)

/-- Every command answers a next state where the valid descriptors it names lie inside ROWMEM, as 10_state.md R36 says they
do at every step boundary, whatever the others are. The rest is the model's choice (notes/assumptions/8.md): a command that
names a valid descriptor which runs past ROWMEM stops, if no fault of its checks comes first; and for each block command the
operands with which it does. -/
def Obligations.RowsOutsideMemoryStopTheModel : Prop :=
  ∀ s : State,
    (∀ i, (∀ k ∈ namedBlocks i, (getB s k).valid = true → base s k + rnum s k ≤ s.params.rowmemRows) →
      ∃ t, exec i s = .next t) ∧
    (∀ i, ∀ k ∈ namedBlocks i, (getB s k).valid = true → s.params.rowmemRows < base s k + rnum s k →
      exec i s = .fault .rowOutsideMemory ∨ ∃ code info, faults i s code info) ∧
    (∀ (k a : BReg) (m : MReg) (g : GReg) (x y z w : XReg), (getB s k).valid = true →
      s.params.rowmemRows < base s k + rnum s k →
      (∀ i ∈ [Instr.bzero k, .brand k, .bgram m k, .bzcm x k, .bnzcm x k], exec i s = .fault .rowOutsideMemory) ∧
      ((getX s y).toNat < rnum s k → ∀ i ∈ [Instr.bgetr g k y, .bputr k y g], exec i s = .fault .rowOutsideMemory) ∧
      ((getX s y).toNat < rnum s k → (getX s z).toNat ≤ 63 → exec (.bat x k y z) s = .fault .rowOutsideMemory) ∧
      ((getX s y).toNat < rnum s k → (getX s z).toNat ≤ 63 → (getX s w).toNat ≤ 15 →
        exec (.bsetat k y z w) s = .fault .rowOutsideMemory) ∧
      ((getX s y).toNat + (getX s z).toNat ≤ s.params.idxEntries →
        (∀ n < (getX s z).toNat, (idxRead s ((getX s y).toNat + n)).toNat < rnum s k) →
        exec (.bzcms x k y z) s = .fault .rowOutsideMemory) ∧
      ((getB s a).valid = true → (getB s a).rnum = (getB s k).rnum →
        ∀ i ∈ [Instr.bcopy k a, .bfma k a m, .bfmad k a m x, .bdfma k a m x, .bmix k a x, .badd k a, .bcopy a k,
            .bfma a k m, .bfmad a k m x, .bdfma a k m x, .bmix a k x, .badd a k],
          exec i s = .fault .rowOutsideMemory))

/-! ### Host port -/

/-- 45_sequencer.md R321: GO, for every state and both widths that reach bit 0 of CTRL. -/
def Obligations.GoStartsOrIsRefused : Prop :=
  ∀ (s : State) (width : Nat) (v : Word), (width = 4 ∨ width = 8) → v.getLsbD 0 = true →
    (s.status.busy = true → hostAccess s (.write 0x010 width v) = rejected s (.write 0x010 width v)) ∧
    (s.status.busy = false → s.status.fault = true →
      hostAccess s (.write 0x010 width v) = rejected s (.write 0x010 width v)) ∧
    (s.status.busy = false → s.status.fault = false →
      hostAccess s (.write 0x010 width v) = { s with status := { s.status with busy := true, done := false } })

/-- 20_memory.md R75: while BUSY = 1 every access but reads of ID, PARAM, CTRL, STATUS and IRQ_EN and writes of STATUS and
IRQ_EN is rejected, and those have their effect: a write to STATUS clears the bits written 1, a write to IRQ_EN sets the
enables (10_state.md R41, R42). Three things here are the model's: that a 4-byte access to the upper half of a control register
is allowed and that a write there is ignored, since that half holds reserved bits alone (20_memory.md R77;
notes/assumptions/15.md), and that the data a read returns is the field `readData` (notes/assumptions/7.md). -/
def Obligations.BusyRejectsAllButControlAccesses : Prop :=
  ∀ (s : State) (a : HostAccess), s.status.busy = true →
    ((∀ off w, a = .read off w → 0x028 ≤ off) → (∀ off w v, a = .write off w v → off < 0x018 ∨ 0x028 ≤ off) →
      hostAccess s a = rejected s a) ∧
    (∀ off w, a = .read off w → legalShape a → off < 0x028 → ∃ v, hostAccess s a = { s with readData := v }) ∧
    (∀ w v, (w = 4 ∨ w = 8) →
      hostAccess s (.write 0x018 w v) =
        { s with status :=
          { busy := true
            done := s.status.done && !v.getLsbD 1
            fault := s.status.fault && !v.getLsbD 2
            allocfail := s.status.allocfail && !v.getLsbD 3
            herr := s.status.herr && !v.getLsbD 4 } } ∧
      hostAccess s (.write 0x020 w v) =
        { s with irqEn :=
          { done := v.getLsbD 1, fault := v.getLsbD 2, allocfail := v.getLsbD 3, herr := v.getLsbD 4 } }) ∧
    (∀ v, hostAccess s (.write 0x01C 4 v) = s ∧ hostAccess s (.write 0x024 4 v) = s)

/-- 20_memory.md R73, R76, R77: an access of another width, misaligned or outside the window, one at a reserved offset, and
a write to a read-only register are rejected. That the 0 a rejected read returns goes to the field `readData` is the model's
choice (notes/assumptions/7.md). -/
def Obligations.IllegalAccessesAreRejected : Prop :=
  ∀ (s : State) (a : HostAccess),
    (¬ legalShape a → hostAccess s a = rejected s a) ∧
    (reservedOffset s.params (offsetOf a) → hostAccess s a = rejected s a) ∧
    (∀ off w v, a = .write off w v → readOnlyOffset off → hostAccess s a = rejected s a)

/-- The idle host's accesses to X, G, M and the memories (10_state.md R32, R33, R34; 20_memory.md R71, R72, R74, R79, R85).
It reads back what it wrote, whole slots and halves. Each offset of the map names its register, plane, row or 32-bit
location: that one is what a read there returns and what a write there stores to, the locations being those that the
fetch, BZCMS and the block commands read; byte k of the value is the memory byte at the offset plus k, and a read of
half a slot returns that half of it. A write stores its value and does nothing else: every other 32-bit location of X, G, M and the memories
reads as before, the other half of a slot included, every other byte of memory is as before, and so is every other field of
the state. A read changes nothing but the data returned. Two things are the model's: the data returned is the field
`readData`, a 4-byte read zero-extended (notes/assumptions/7.md), and a 4-byte write, at +4 too, carries its 32 bits in the
low half of its value (notes/assumptions/14.md). -/
def Obligations.HostReadsBackItsWrites : Prop :=
  ∀ (s : State) (off : Nat) (v : Word), s.status.busy = false →
    (memWf s.mem = true → off % 8 = 0 → plainOffset s.params off → plainOffset s.params (off + 7) →
      (hostAccess (hostAccess s (.write off 8 v)) (.read off 8)).readData = v ∧
      (hostAccess (hostAccess s (.write off 8 v)) (.read off 4)).readData = (v.extractLsb' 0 32).setWidth 64 ∧
      (hostAccess (hostAccess s (.write off 8 v)) (.read (off + 4) 4)).readData = (v.extractLsb' 32 32).setWidth 64) ∧
    (memWf s.mem = true → off % 4 = 0 → plainOffset s.params off →
      (hostAccess (hostAccess s (.write off 4 v)) (.read off 4)).readData = (v.extractLsb' 0 32).setWidth 64) ∧
    (∀ width, (width = 4 ∨ width = 8) → off % width = 0 → plainOffset s.params off →
      plainOffset s.params (off + width - 1) →
      (∃ x g m mem, hostAccess s (.write off width v) = { s with x := x, g := g, m := m, mem := mem }) ∧
      (∀ o, o % 4 = 0 → plainOffset s.params o → (o + 4 ≤ off ∨ off + width ≤ o) →
        (hostAccess (hostAccess s (.write off width v)) (.read o 4)).readData = (hostAccess s (.read o 4)).readData) ∧
      (∀ a, (a < off ∨ off + width ≤ a) → memByte (hostAccess s (.write off width v)).mem a = memByte s.mem a) ∧
      (∃ data, hostAccess s (.read off width) = { s with readData := data })) ∧
    (∀ n : XReg,
      hostAccess s (.read (0x100 + 8 * n.val) 8) = { s with readData := getX s n } ∧
      hostAccess s (.write (0x100 + 8 * n.val) 8 v) = { s with x := s.x.set n v }) ∧
    (∀ (n : GReg) (p : Fin 4),
      hostAccess s (.read (0x200 + 32 * n.val + 8 * p.val) 8) = { s with readData := planeWord (getG s n) p } ∧
      hostAccess s (.write (0x200 + 32 * n.val + 8 * p.val) 8 v) =
        { s with g := s.g.set n (withPlane (getG s n) v p) }) ∧
    (∀ (n : MReg) (r : Fin 64) (p : Fin 4),
      hostAccess s (.read (0x10000 + 0x800 * n.val + 32 * r.val + 8 * p.val) 8) =
        { s with readData := planeWord (getM s n)[r] p } ∧
      hostAccess s (.write (0x10000 + 0x800 * n.val + 32 * r.val + 8 * p.val) 8 v) =
        { s with m := s.m.set n ((getM s n).set r (withPlane (getM s n)[r] v p)) }) ∧
    (∀ (r : Nat) (p : Fin 4), r < s.params.rowmemRows →
      hostAccess s (.read (0x1000000 + 32 * r + 8 * p.val) 8) = { s with readData := planeWord (rowLoad s.mem r) p } ∧
      (memWf s.mem = true → ∀ q,
        rowLoad (hostAccess s (.write (0x1000000 + 32 * r + 8 * p.val) 8 v)).mem q =
          if q = r then withPlane (rowLoad s.mem r) v p else rowLoad s.mem q)) ∧
    (∀ k < s.params.cmdWords,
      hostAccess s (.read (0x20000 + 4 * k) 4) =
        { s with readData := (memLoad32 s.mem (0x20000 + 4 * k)).setWidth 64 } ∧
      (memWf s.mem = true → ∀ j,
        memLoad32 (hostAccess s (.write (0x20000 + 4 * k) 4 v)).mem (0x20000 + 4 * j) =
          if j = k then v.extractLsb' 0 32 else memLoad32 s.mem (0x20000 + 4 * j))) ∧
    (∀ k < s.params.idxEntries,
      hostAccess s (.read (0x30000 + 4 * k) 4) = { s with readData := (idxRead s k).setWidth 64 } ∧
      (memWf s.mem = true → ∀ j,
        idxRead (hostAccess s (.write (0x30000 + 4 * k) 4 v)) j = if j = k then v.extractLsb' 0 32 else idxRead s j)) ∧
    (∀ width, (width = 4 ∨ width = 8) → off % width = 0 → memoryOffset s.params off →
      memoryOffset s.params (off + width - 1) → ∀ k < width,
      (hostAccess s (.read off width)).readData.extractLsb' (8 * k) 8 = memByte s.mem (off + k) ∧
      (memWf s.mem = true →
        memByte (hostAccess s (.write off width v)).mem (off + k) = v.extractLsb' (8 * k) 8)) ∧
    (off % 8 = 0 → plainOffset s.params off → plainOffset s.params (off + 7) →
      (hostAccess s (.read off 4)).readData = ((hostAccess s (.read off 8)).readData.extractLsb' 0 32).setWidth 64 ∧
      (hostAccess s (.read (off + 4) 4)).readData =
        ((hostAccess s (.read off 8)).readData.extractLsb' 32 32).setWidth 64)

/-- The control registers of the host port (10_state.md R38 to R49; 20_memory.md R74, R77, R79). A read, of any of them
while idle and of those below 0x028 while busy, returns the register's 64 bits, whole or by halves, and changes nothing else.
STATUS bits 1 to 4 are cleared where the written bit is 1 and kept elsewhere, BUSY is kept, busy or not (R41); a write to
IRQ_EN sets the enables, busy or not (R42); while idle a write to CTRL with bit 0 = 0 has no effect (R40) and a write to CPC
sets it (R43). Two things are the model's: the data returned is the field `readData`, a 4-byte read zero-extended
(notes/assumptions/7.md), and a 4-byte access to the upper half is allowed, a write there being ignored
(notes/assumptions/15.md). -/
def Obligations.ControlRegisterReadsAndWrites : Prop :=
  ∀ s : State,
    (∀ p ∈ controlRegisters s, (s.status.busy = false ∨ p.1 < 0x028) →
      hostAccess s (.read p.1 8) = { s with readData := BitVec.ofNat 64 p.2 } ∧
      hostAccess s (.read p.1 4) = { s with readData := BitVec.ofNat 64 (p.2 % 2 ^ 32) } ∧
      hostAccess s (.read (p.1 + 4) 4) = { s with readData := BitVec.ofNat 64 (p.2 / 2 ^ 32) }) ∧
    (∀ (width : Nat) (v : Word), (width = 4 ∨ width = 8) →
      hostAccess s (.write 0x018 width v) =
        { s with status :=
          { busy := s.status.busy
            done := s.status.done && !v.getLsbD 1
            fault := s.status.fault && !v.getLsbD 2
            allocfail := s.status.allocfail && !v.getLsbD 3
            herr := s.status.herr && !v.getLsbD 4 } } ∧
      hostAccess s (.write 0x020 width v) =
        { s with irqEn :=
          { done := v.getLsbD 1, fault := v.getLsbD 2, allocfail := v.getLsbD 3, herr := v.getLsbD 4 } } ∧
      (s.status.busy = false → v.getLsbD 0 = false → hostAccess s (.write 0x010 width v) = s) ∧
      (s.status.busy = false → hostAccess s (.write 0x028 width v) = { s with cpc := v.extractLsb' 0 32 })) ∧
    (∀ v : Word, hostAccess s (.write 0x01C 4 v) = s ∧ hostAccess s (.write 0x024 4 v) = s ∧
      (s.status.busy = false → hostAccess s (.write 0x014 4 v) = s ∧ hostAccess s (.write 0x02C 4 v) = s))

/-- 60_exceptions.md R348: the IRQ output is the OR over bits 1 to 4 of STATUS and IRQ_EN as the host reads them. -/
def Obligations.IrqIsTheEnabledStatusOr : Prop :=
  ∀ s : State, irqOutput s = true ↔
    ∃ k, 1 ≤ k ∧ k ≤ 4 ∧ (slotWord s .statusReg &&& slotWord s .irqEnReg).getLsbD k = true

/-- 60_exceptions.md R345: the host's return from a fault. From an idle faulted state, clearing STATUS.FAULT, writing CPC
and writing GO starts a run at the chosen command, every other element as it was but DONE cleared. -/
def Obligations.HostReturnsFromAFault : Prop :=
  ∀ (s : State) (pc : BitVec 32), s.status.busy = false →
    hostAccess (hostAccess (hostAccess s (.write 0x018 8 0x4)) (.write 0x028 8 (pc.setWidth 64))) (.write 0x010 8 1) =
      resumeAt s pc ∧
    resumeAt s pc = { s with cpc := pc, status := { s.status with busy := true, done := false, fault := false } }
end

