-- ==== Sys2Proof/Laws/Arith.lean ====
section
/-! SUPPORT. The small lemmas of the arithmetic: bits and lanes of the group operations, rows of the matrix operations. -/

namespace Sys2Proof.Machine

/-! ### Bits -/

@[simp] theorem getLsbD_bit (i j : Nat) : (bit i).getLsbD j = (decide (j < 64) && decide (i = j)) := by
  unfold bit
  rw [BitVec.getLsbD_shiftLeft, BitVec.getLsbD_one]
  by_cases hj : j < 64 <;> by_cases hi : i = j
  · subst hi; simp [hj]
  · by_cases hlt : j < i
    · simp [hj, hi, hlt]
    · have : j - i ≠ 0 := by omega
      simp [hj, hi, hlt, this]
  · simp [hj]
  · simp [hj]

theorem getLsbD_setBit (w : Word) (i j : Nat) (v : Bool) (hj : j < 64) :
    (setBit w i v).getLsbD j = if i = j then v else w.getLsbD j := by
  unfold setBit
  have hb := getLsbD_bit i j
  by_cases hi : i = j <;> cases v <;> simp_all

theorem getLsbD_planeIf (c : Elem) (k : Nat) (w : Word) (i : Nat) :
    (planeIf c k w).getLsbD i = (c.getLsbD k && w.getLsbD i) := by
  unfold planeIf
  split <;> simp_all

/-! ### Lanes -/

@[simp] theorem lane_bit0 (g : Grp64) (i : Nat) : (lane g i)[0] = g.b0.getLsbD i := by
  unfold lane
  cases g.b3.getLsbD i <;> cases g.b2.getLsbD i <;> cases g.b1.getLsbD i <;> cases g.b0.getLsbD i <;> rfl

@[simp] theorem lane_bit1 (g : Grp64) (i : Nat) : (lane g i)[1] = g.b1.getLsbD i := by
  unfold lane
  cases g.b3.getLsbD i <;> cases g.b2.getLsbD i <;> cases g.b1.getLsbD i <;> cases g.b0.getLsbD i <;> rfl

@[simp] theorem lane_bit2 (g : Grp64) (i : Nat) : (lane g i)[2] = g.b2.getLsbD i := by
  unfold lane
  cases g.b3.getLsbD i <;> cases g.b2.getLsbD i <;> cases g.b1.getLsbD i <;> cases g.b0.getLsbD i <;> rfl

@[simp] theorem lane_bit3 (g : Grp64) (i : Nat) : (lane g i)[3] = g.b3.getLsbD i := by
  unfold lane
  cases g.b3.getLsbD i <;> cases g.b2.getLsbD i <;> cases g.b1.getLsbD i <;> cases g.b0.getLsbD i <;> rfl

/-- Elements with the same four bits are equal. -/
theorem elem_ext {a b : Elem} (h0 : a[0] = b[0]) (h1 : a[1] = b[1]) (h2 : a[2] = b[2]) (h3 : a[3] = b[3]) :
    a = b := by
  apply BitVec.eq_of_getElem_eq
  intro i hi
  have : i = 0 ∨ i = 1 ∨ i = 2 ∨ i = 3 := by omega
  rcases this with rfl | rfl | rfl | rfl <;> assumption

/-- Groups with the same 64 lanes are equal. -/
theorem grp_ext {g h : Grp64} (hl : ∀ i < 64, lane g i = lane h i) : g = h := by
  obtain ⟨p0, p1, p2, p3⟩ := g
  obtain ⟨q0, q1, q2, q3⟩ := h
  rw [Grp64.mk.injEq]
  refine ⟨?_, ?_, ?_, ?_⟩ <;> refine BitVec.eq_of_getLsbD_eq fun i hi => ?_
  · simpa using congrArg (fun e : Elem => e[0]) (hl i hi)
  · simpa using congrArg (fun e : Elem => e[1]) (hl i hi)
  · simpa using congrArg (fun e : Elem => e[2]) (hl i hi)
  · simpa using congrArg (fun e : Elem => e[3]) (hl i hi)

@[simp] theorem lane_zeroGroup (i : Nat) : lane zeroGroup i = 0 := by
  apply elem_ext <;> simp [zeroGroup]

@[simp] theorem lane_gxor (g h : Grp64) (i : Nat) : lane (gxor g h) i = lane g i ^^^ lane h i := by
  apply elem_ext <;> simp [gxor]

theorem lane_gmask (g : Grp64) (m : Word) (i : Nat) :
    lane (gmask g m) i = if m.getLsbD i then lane g i else 0 := by
  apply elem_ext <;> by_cases h : m.getLsbD i <;> simp [gmask, h]

theorem lane_setLane (g : Grp64) (i j : Nat) (hj : j < 64) (v : Elem) :
    lane (setLane g i v) j = if i = j then v else lane g j := by
  apply elem_ext <;> by_cases h : i = j <;> simp [setLane, getLsbD_setBit _ _ _ _ hj, h]

/-! ### XOR of groups -/

theorem gxor_zeroGroup (g : Grp64) : gxor g zeroGroup = g := by
  simp [gxor, zeroGroup]

theorem zeroGroup_gxor (g : Grp64) : gxor zeroGroup g = g := by
  simp [gxor, zeroGroup]

theorem gxor_self (g : Grp64) : gxor g g = zeroGroup := by
  simp [gxor, zeroGroup]

theorem gxor_comm (g h : Grp64) : gxor g h = gxor h g := by
  simp [gxor, BitVec.xor_comm]

theorem gxor_assoc (f g h : Grp64) : gxor (gxor f g) h = gxor f (gxor g h) := by
  simp [gxor, BitVec.xor_assoc]

/-! ### Rows of matrices -/

@[simp] theorem matrixOf_getElem (f : Fin 64 → Grp64) (r : Fin 64) : (matrixOf f)[r] = f r := by
  simp [matrixOf]

/-- Matrices with the same 64 rows are equal. -/
theorem mat_ext {a b : Mat64} (h : ∀ r : Fin 64, a[r] = b[r]) : a = b :=
  Vector.ext fun i hi => h ⟨i, hi⟩

@[simp] theorem zeroMatrix_getElem (r : Fin 64) : zeroMatrix[r] = zeroGroup := by
  simp [zeroMatrix]

theorem swapRows_getElem (m : Mat64) (p q r : Fin 64) :
    (swapRows m p q)[r] = if q = r then m[p] else if p = r then m[q] else m[r] := by
  simp [swapRows, Vector.getElem_set, Fin.ext_iff]

/-! ### The elimination of IDENT -/

theorem scale_one (g : Grp64) : scale g 1 = g := by
  simp [scale, planeIf]

theorem scale_zero (g : Grp64) : scale g 0 = zeroGroup := by
  simp [scale, planeIf, zeroGroup]

theorem entry_identMatrix (r c : Fin 64) : entry identMatrix r c = if r = c then 1 else 0 := by
  unfold entry identMatrix
  rw [matrixOf_getElem]
  by_cases h : r = c
  · subst h; apply elem_ext <;> simp
  · have hb : (bit r.val).getLsbD c.val = false := by rw [getLsbD_bit]; simp [Fin.val_inj, h]
    apply elem_ext <;> simp only [lane_bit0, lane_bit1, lane_bit2, lane_bit3, hb, if_neg h] <;> simp

theorem swapRows_self (m : Mat64) (p : Fin 64) : swapRows m p p = m := by
  apply mat_ext
  intro r
  rw [swapRows_getElem]
  split <;> simp_all

theorem findPivot_identMatrix (i : Fin 64) : findPivot identMatrix i = some i := by
  unfold findPivot
  simp only [entry_identMatrix]
  revert i
  decide

/-- With IDENT as the matrix a pivot step only sets its mask bit: the pivot is 1 and every other entry of its column 0. -/
theorem pivotStep_identMatrix (c : Mat64) (mask : Word) (i : Fin 64) :
    pivotStep { m := identMatrix, c := c, mask := mask } i = { m := identMatrix, c := c, mask := mask ||| bit i.val } := by
  have h (m : Mat64) : eliminate identMatrix m i i m[i] = m := by
    apply mat_ext
    intro r
    unfold eliminate
    rw [matrixOf_getElem]
    by_cases hr : r = i
    · simp [hr]
    · rw [if_neg hr, entry_identMatrix, if_neg hr, scale_zero, gxor_zeroGroup]
  have hs (m : Mat64) : scale m[i] (gfInv (entry identMatrix i i)) = m[i] := by
    rw [entry_identMatrix, if_pos rfl]; exact scale_one _
  simp only [pivotStep, findPivot_identMatrix, hs, h, swapRows_self]

/-- The elimination of IDENT pivots every column and leaves both matrices as they were. -/
theorem gaussJordan_identMatrix (c : Mat64) :
    gaussJordan identMatrix c = { m := identMatrix, c := c, mask := ones } := by
  have h (l : List (Fin 64)) : ∀ mask, l.foldl pivotStep { m := identMatrix, c := c, mask := mask } =
      { m := identMatrix, c := c, mask := l.foldl (fun w i => w ||| bit i.val) mask } := by
    induction l with
    | nil => intro mask; rfl
    | cons i l ih => intro mask; rw [List.foldl_cons, pivotStep_identMatrix, ih]; rfl
  rw [gaussJordan, h]
  congr 1

end Sys2Proof.Machine
end

