-- ==== Sys2Proof/Laws/Encoding.lean ====
section
/-! SUPPORT. Laws of the word layout: what the decoder's fields read from a word the encoder built, and that its row
admits it (30_encoding.md R101 to R107). -/

namespace Sys2Proof

/-! ### The opcode -/

theorem opcodeOf_encN (op : BitVec 8) : opcodeOf (encN op) = op := BitVec.extractLsb'_append_eq_left

theorem opcodeOf_encI (op : BitVec 8) (d : Nat) (imm16 : BitVec 16) (h : BitVec 2) :
    opcodeOf (encI op d imm16 h) = op :=
  (BitVec.extractLsb'_append_eq_of_le (by omega)).trans <|
    (BitVec.extractLsb'_append_eq_of_le (by omega)).trans <|
      (BitVec.extractLsb'_append_eq_of_le (by omega)).trans <|
        (BitVec.extractLsb'_append_eq_of_le (by omega)).trans <|
          BitVec.extractLsb'_eq_self

theorem opcodeOf_encR (op : BitVec 8) (d a b c : Nat) : opcodeOf (encR op d a b c) = op :=
  (BitVec.extractLsb'_append_eq_of_le (by omega)).trans <|
    (BitVec.extractLsb'_append_eq_of_le (by omega)).trans <|
      (BitVec.extractLsb'_append_eq_of_le (by omega)).trans <|
        (BitVec.extractLsb'_append_eq_of_le (by omega)).trans <|
          (BitVec.extractLsb'_append_eq_of_le (by omega)).trans <|
            BitVec.extractLsb'_eq_self

/-! ### Register fields -/

/-- A register number survives its 4-bit field. -/
theorem ofNat_regField {n : Nat} [NeZero n] {k : Nat} (h : k < n) (hn : n ≤ 16) :
    (Fin.ofNat n (regField k).toNat).val = k := by
  simp only [regField, BitVec.toNat_ofNat, Fin.val_ofNat]
  rw [Nat.mod_eq_of_lt (b := 2 ^ 4) (by omega), Nat.mod_eq_of_lt h]

theorem fieldD_encR {n : Nat} [NeZero n] (op : BitVec 8) (d a b c : Nat) (h : d < n) (hn : n ≤ 16) :
    (fieldD (encR op d a b c) : Fin n).val = d := by
  have hx : (encR op d a b c).extractLsb' 20 4 = regField d :=
    (BitVec.extractLsb'_append_eq_of_le (by omega)).trans <|
      (BitVec.extractLsb'_append_eq_of_le (by omega)).trans <|
        (BitVec.extractLsb'_append_eq_of_le (by omega)).trans <|
          (BitVec.extractLsb'_append_eq_of_le (by omega)).trans <|
            BitVec.extractLsb'_append_eq_right
  unfold fieldD
  rw [hx]
  exact ofNat_regField h hn

theorem fieldA_encR {n : Nat} [NeZero n] (op : BitVec 8) (d a b c : Nat) (h : a < n) (hn : n ≤ 16) :
    (fieldA (encR op d a b c) : Fin n).val = a := by
  have hx : (encR op d a b c).extractLsb' 16 4 = regField a :=
    (BitVec.extractLsb'_append_eq_of_le (by omega)).trans <|
      (BitVec.extractLsb'_append_eq_of_le (by omega)).trans <|
        (BitVec.extractLsb'_append_eq_of_le (by omega)).trans <|
          BitVec.extractLsb'_append_eq_right
  unfold fieldA
  rw [hx]
  exact ofNat_regField h hn

theorem fieldB_encR {n : Nat} [NeZero n] (op : BitVec 8) (d a b c : Nat) (h : b < n) (hn : n ≤ 16) :
    (fieldB (encR op d a b c) : Fin n).val = b := by
  have hx : (encR op d a b c).extractLsb' 12 4 = regField b :=
    (BitVec.extractLsb'_append_eq_of_le (by omega)).trans <|
      (BitVec.extractLsb'_append_eq_of_le (by omega)).trans <|
        BitVec.extractLsb'_append_eq_right
  unfold fieldB
  rw [hx]
  exact ofNat_regField h hn

theorem fieldC_encR {n : Nat} [NeZero n] (op : BitVec 8) (d a b c : Nat) (h : c < n) (hn : n ≤ 16) :
    (fieldC (encR op d a b c) : Fin n).val = c := by
  have hx : (encR op d a b c).extractLsb' 8 4 = regField c :=
    (BitVec.extractLsb'_append_eq_of_le (by omega)).trans <|
      BitVec.extractLsb'_append_eq_right
  unfold fieldC
  rw [hx]
  exact ofNat_regField h hn

theorem fieldD_encI {n : Nat} [NeZero n] (op : BitVec 8) (d : Nat) (imm16 : BitVec 16) (h : BitVec 2) (hd : d < n)
    (hn : n ≤ 16) : (fieldD (encI op d imm16 h) : Fin n).val = d := by
  have hx : (encI op d imm16 h).extractLsb' 20 4 = regField d :=
    (BitVec.extractLsb'_append_eq_of_le (by omega)).trans <|
      (BitVec.extractLsb'_append_eq_of_le (by omega)).trans <|
        (BitVec.extractLsb'_append_eq_of_le (by omega)).trans <|
          BitVec.extractLsb'_append_eq_right
  unfold fieldD
  rw [hx]
  exact ofNat_regField hd hn

theorem fieldH_encI (op : BitVec 8) (d : Nat) (imm16 : BitVec 16) (h : BitVec 2) : fieldH (encI op d imm16 h) = h :=
  (BitVec.extractLsb'_append_eq_of_le (by omega)).trans <|
    BitVec.extractLsb'_append_eq_right

theorem fieldImm_encI (op : BitVec 8) (d : Nat) (imm16 : BitVec 16) (h : BitVec 2) :
    fieldImm (encI op d imm16 h) = imm16 :=
  BitVec.extractLsb'_append_eq_right

/-! ### A built word is admitted by its row -/

theorem append_nestR_toNat (a : BitVec 8) (b c d e : BitVec 4) (f : BitVec 8) :
    (a ++ (b ++ c ++ d ++ e ++ f)).toNat = (a ++ b ++ c ++ d ++ e ++ f).toNat := by
  simp only [BitVec.toNat_append, Nat.shiftLeft_or_distrib, ← Nat.shiftLeft_add, Nat.lor_assoc]

theorem append_nestR (a : BitVec 8) (b c d e : BitVec 4) (f : BitVec 8) :
    (a ++ (b ++ c ++ d ++ e ++ f : BitVec 24) : BitVec 32) = a ++ b ++ c ++ d ++ e ++ f :=
  BitVec.eq_of_toNat_eq (append_nestR_toNat a b c d e f)

theorem append_nestI_toNat (a : BitVec 8) (b : BitVec 4) (c d : BitVec 2) (e : BitVec 16) :
    (a ++ (b ++ (c ++ d) ++ e)).toNat = (a ++ b ++ c ++ d ++ e).toNat := by
  simp only [BitVec.toNat_append, Nat.shiftLeft_or_distrib, ← Nat.shiftLeft_add, Nat.lor_assoc]

theorem append_nestI (a : BitVec 8) (b : BitVec 4) (c d : BitVec 2) (e : BitVec 16) :
    (a ++ (b ++ (c ++ d : BitVec 4) ++ e : BitVec 24) : BitVec 32) = a ++ b ++ c ++ d ++ e :=
  BitVec.eq_of_toNat_eq (append_nestI_toNat a b c d e)

theorem admits_encR (op : BitVec 8) (cd ca cb cc : FieldClass) (build : Word32 → Instr) (d a b c : Nat)
    (hd : regField d &&& cd.mustBeZero = 0) (ha : regField a &&& ca.mustBeZero = 0)
    (hb : regField b &&& cb.mustBeZero = 0) (hc : regField c &&& cc.mustBeZero = 0) :
    Row.admits ⟨op, .formatR cd ca cb cc, build⟩ (encR op d a b c) = true := by
  have h : (op ++ regField d ++ regField a ++ regField b ++ regField c ++ (0 : BitVec 8)) &&&
      ((0xFF : BitVec 8) ++ cd.mustBeZero ++ ca.mustBeZero ++ cb.mustBeZero ++ cc.mustBeZero ++ (0xFF : BitVec 8)) =
      op ++ (0 : BitVec 4) ++ (0 : BitVec 4) ++ (0 : BitVec 4) ++ (0 : BitVec 4) ++ (0 : BitVec 8) := by
    simp only [BitVec.and_append, hd, ha, hb, hc]
    congr
    exact BitVec.and_allOnes
  have hp : (op ++ (0 : BitVec 24) : BitVec 32) =
      op ++ (0 : BitVec 4) ++ (0 : BitVec 4) ++ (0 : BitVec 4) ++ (0 : BitVec 4) ++ (0 : BitVec 8) :=
    append_nestR op 0 0 0 0 0
  unfold Row.admits Row.mask Row.pattern Layout.mustBeZero encR
  rw [beq_iff_eq]
  dsimp only
  rw [append_nestR, hp]
  exact h

theorem admits_encI (op : BitVec 8) (build : Word32 → Instr) (d : Nat) (imm16 : BitVec 16) (h : BitVec 2) :
    Row.admits ⟨op, .formatI, build⟩ (encI op d imm16 h) = true := by
  have hw : (op ++ regField d ++ (0 : BitVec 2) ++ h ++ imm16) &&&
      ((0xFF : BitVec 8) ++ (0 : BitVec 4) ++ (3 : BitVec 2) ++ (0 : BitVec 2) ++ (0 : BitVec 16)) =
      op ++ (0 : BitVec 4) ++ (0 : BitVec 2) ++ (0 : BitVec 2) ++ (0 : BitVec 16) := by
    simp only [BitVec.and_append]
    congr
    · exact BitVec.and_allOnes
    · exact BitVec.and_zero
    · exact BitVec.and_zero
    · exact BitVec.and_zero
  unfold Row.admits encI
  rw [beq_iff_eq]
  have hm : Row.mask ⟨op, .formatI, build⟩ =
      (0xFF : BitVec 8) ++ (0 : BitVec 4) ++ (3 : BitVec 2) ++ (0 : BitVec 2) ++ (0 : BitVec 16) :=
    append_nestI 0xFF 0 3 0 0
  have hp : Row.pattern ⟨op, .formatI, build⟩ =
      op ++ (0 : BitVec 4) ++ (0 : BitVec 2) ++ (0 : BitVec 2) ++ (0 : BitVec 16) :=
    append_nestI op 0 0 0 0
  rw [hm, hp]
  exact hw

theorem admits_encN (op : BitVec 8) (build : Word32 → Instr) : Row.admits ⟨op, .formatN, build⟩ (encN op) = true := by
  have hw : (op ++ (0 : BitVec 24)) &&& ((0xFF : BitVec 8) ++ (0xFFFFFF : BitVec 24)) = op ++ (0 : BitVec 24) := by
    simp only [BitVec.and_append]
    congr
    exact BitVec.and_allOnes
  unfold Row.admits encN
  rw [beq_iff_eq]
  exact hw

/-! ### The must-be-zero bits of a legal register number -/

theorem regField_unused : regField 0 &&& FieldClass.unused.mustBeZero = 0 := by decide

theorem regField_xReg (k : XReg) : regField k.val &&& FieldClass.xReg.mustBeZero = 0 := BitVec.and_zero

theorem regField_gReg (k : GReg) : regField k.val &&& FieldClass.gReg.mustBeZero = 0 := BitVec.and_zero

theorem regField_mReg (k : MReg) : regField k.val &&& FieldClass.mReg.mustBeZero = 0 := by
  revert k; decide

theorem regField_bReg (k : BReg) : regField k.val &&& FieldClass.bReg.mustBeZero = 0 := by
  revert k; decide

end Sys2Proof
end

