-- ==== Sys2Proof/Laws/Memory.lean ====
section
/-! SUPPORT. The laws of the memory list: what a byte reads as after a write, that every operation keeps the canonical
form and the mapped bytes, and the same for words, rows and runs of rows. -/

namespace Sys2Proof.Machine

/-! ### The canonical form -/

theorem memSorted_mono {lo lo' : Nat} (h : lo' ≤ lo) {m : Memory} (hm : memSorted lo m = true) :
    memSorted lo' m = true := by
  cases m with
  | nil => rfl
  | cons c rest =>
    obtain ⟨a, v⟩ := c
    simp only [memSorted, Bool.and_eq_true, decide_eq_true_eq] at hm ⊢
    exact ⟨⟨by omega, hm.1.2⟩, hm.2⟩

/-- Below the first listed address every byte is unwritten. -/
theorem memByte_of_lt {lo : Nat} {m : Memory} (hm : memSorted lo m = true) {a : Nat} (h : a < lo) :
    memByte m a = Config.unwrittenByte := by
  induction m generalizing lo with
  | nil => rfl
  | cons c rest ih =>
    obtain ⟨k, v⟩ := c
    simp only [memSorted, Bool.and_eq_true, decide_eq_true_eq] at hm
    have : k ≠ a := by omega
    simp only [memByte, if_neg this]
    exact ih hm.2 (by omega)

theorem memPut_sorted {lo : Nat} {m : Memory} (hm : memSorted lo m = true) {a : Nat} (ha : lo ≤ a) (v : Byte) :
    memSorted lo (memPut m a v) = true := by
  induction m generalizing lo with
  | nil =>
    simp only [memPut]
    split
    · rfl
    · rename_i hv
      simp [memSorted, ha, hv]
  | cons c rest ih =>
    obtain ⟨k, w⟩ := c
    have hm' := hm
    simp only [memSorted, Bool.and_eq_true, decide_eq_true_eq] at hm
    simp only [memPut]
    split_ifs with h1 h2 h3 h4
    · simp only [memSorted, Bool.and_eq_true, decide_eq_true_eq]
      exact ⟨hm.1, ih hm.2 (by omega)⟩
    · exact memSorted_mono (by omega) hm.2
    · subst h2
      simp [memSorted, ha, h3, hm.2]
    · exact hm'
    · have hw := hm.1.2
      simp only [bne_iff_ne, ne_eq] at hw
      have hlt : a + 1 ≤ k := by omega
      simp [memSorted, ha, h4, hm.2, hw, hlt]

theorem memPut_wf {m : Memory} (hm : memWf m = true) (a : Nat) (v : Byte) : memWf (memPut m a v) = true :=
  memPut_sorted hm (Nat.zero_le a) v

/-! ### Bytes -/

/-- A write leaves every other byte alone. -/
theorem memByte_memPut_ne (m : Memory) {a b : Nat} (h : b ≠ a) (v : Byte) :
    memByte (memPut m a v) b = memByte m b := by
  induction m with
  | nil =>
    simp only [memPut]
    split
    · rfl
    · simp [memByte, Ne.symm h]
  | cons c rest ih =>
    obtain ⟨k, w⟩ := c
    simp only [memPut]
    split_ifs with h1 h2 h3 h4
    · simp only [memByte, ih]
    · subst h2; simp [memByte, Ne.symm h]
    · subst h2; simp [memByte, Ne.symm h]
    · rfl
    · simp [memByte, Ne.symm h]

theorem memByte_memPut_self_of_sorted {lo : Nat} {m : Memory} (hm : memSorted lo m = true) (a : Nat) (v : Byte) :
    memByte (memPut m a v) a = v := by
  induction m generalizing lo with
  | nil =>
    simp only [memPut]
    split
    · rename_i hv; simp [memByte, hv]
    · simp [memByte]
  | cons c rest ih =>
    obtain ⟨k, w⟩ := c
    simp only [memSorted, Bool.and_eq_true, decide_eq_true_eq] at hm
    simp only [memPut]
    split_ifs with h1 h2 h3 h4
    · have : k ≠ a := by omega
      simp only [memByte, if_neg this]
      exact ih hm.2
    · subst h2; rw [memByte_of_lt hm.2 (Nat.lt_succ_self k), h3]
    · simp [memByte]
    · have : k ≠ a := by omega
      simp only [memByte, if_neg this]
      rw [memByte_of_lt hm.2 (by omega), h4]
    · simp [memByte]

/-- A write reads back. -/
theorem memByte_memPut_self {m : Memory} (hm : memWf m = true) (a : Nat) (v : Byte) :
    memByte (memPut m a v) a = v :=
  memByte_memPut_self_of_sorted hm a v

/-- What every byte reads as after a write. -/
theorem memByte_memPut {m : Memory} (hm : memWf m = true) (a b : Nat) (v : Byte) :
    memByte (memPut m a v) b = if b = a then v else memByte m b := by
  split
  · rename_i h; rw [h, memByte_memPut_self hm]
  · rename_i h; exact memByte_memPut_ne m h v

theorem memSorted_ext {lo : Nat} {m n : Memory} (hm : memSorted lo m = true) (hn : memSorted lo n = true)
    (h : ∀ a, memByte m a = memByte n a) : m = n := by
  induction m generalizing lo n with
  | nil =>
    cases n with
    | nil => rfl
    | cons c rest =>
      obtain ⟨k, v⟩ := c
      simp only [memSorted, Bool.and_eq_true, bne_iff_ne, ne_eq] at hn
      have := h k
      simp [memByte] at this
      exact absurd this.symm hn.1.2
  | cons c rest ih =>
    obtain ⟨k, v⟩ := c
    simp only [memSorted, Bool.and_eq_true, bne_iff_ne, ne_eq, decide_eq_true_eq] at hm
    cases n with
    | nil =>
      have := h k
      simp [memByte] at this
      exact absurd this hm.1.2
    | cons d rest' =>
      obtain ⟨k', v'⟩ := d
      simp only [memSorted, Bool.and_eq_true, bne_iff_ne, ne_eq, decide_eq_true_eq] at hn
      have hk : k = k' := by
        rcases Nat.lt_trichotomy k k' with hlt | heq | hgt
        · have h1 := h k
          have hne : k' ≠ k := by omega
          simp only [memByte, if_pos, if_neg hne] at h1
          rw [memByte_of_lt hn.2 (by omega)] at h1
          exact absurd h1 hm.1.2
        · exact heq
        · have h1 := h k'
          have hne : k ≠ k' := by omega
          simp only [memByte, if_pos, if_neg hne] at h1
          rw [memByte_of_lt hm.2 (by omega)] at h1
          exact absurd h1.symm hn.1.2
      subst hk
      have hv : v = v' := by simpa [memByte] using h k
      subst hv
      have : rest = rest' := by
        refine ih hm.2 hn.2 fun a => ?_
        by_cases hak : k = a
        · subst hak
          rw [memByte_of_lt hm.2 (Nat.lt_succ_self k), memByte_of_lt hn.2 (Nat.lt_succ_self k)]
        · simpa [memByte, hak] using h a
      rw [this]

/-- Canonical memories that read alike at every address are the same list. -/
theorem memory_ext {m n : Memory} (hm : memWf m = true) (hn : memWf n = true)
    (h : ∀ a, memByte m a = memByte n a) : m = n :=
  memSorted_ext hm hn h

/-! ### Mapped bytes -/

theorem memPut_mapped {P : Params} {m : Memory} (hm : memMapped P m = true) {a : Nat} (ha : mappedByte P a = true)
    (v : Byte) : memMapped P (memPut m a v) = true := by
  induction m with
  | nil =>
    simp only [memPut]
    split
    · rfl
    · simp [memMapped, ha]
  | cons c rest ih =>
    obtain ⟨k, w⟩ := c
    have hk : mappedByte P k = true ∧ memMapped P rest = true := by
      simpa [memMapped, List.all_cons, Bool.and_eq_true] using hm
    have cons_mapped : ∀ (b : Nat) (u : Byte) (n : Memory), mappedByte P b = true → memMapped P n = true →
        memMapped P ((b, u) :: n) = true := by
      intro b u n hb hn
      simp only [memMapped, List.all_cons, Bool.and_eq_true]
      exact ⟨hb, hn⟩
    simp only [memPut]
    split_ifs
    · exact cons_mapped _ _ _ hk.1 (ih hk.2)
    · exact hk.2
    · exact cons_mapped _ _ _ ha hk.2
    · exact hm
    · exact cons_mapped _ _ _ ha hm

theorem drawMemory_fold_wf (P : Params) (cells : List Host.Cell) {m : Memory} (hm : memWf m = true) :
    memWf (cells.foldl (fun m c => if mappedByte P c.1 then memPut m c.1 c.2 else m) m) = true := by
  induction cells generalizing m with
  | nil => exact hm
  | cons c rest ih =>
    simp only [List.foldl_cons]
    apply ih
    split
    · exact memPut_wf hm _ _
    · exact hm

/-- A reset's memory is canonical. -/
theorem drawMemory_wf (P : Params) (cells : List Host.Cell) : memWf (drawMemory P cells) = true :=
  drawMemory_fold_wf P cells rfl

theorem drawMemory_fold_mapped (P : Params) (cells : List Host.Cell) {m : Memory} (hm : memMapped P m = true) :
    memMapped P (cells.foldl (fun m c => if mappedByte P c.1 then memPut m c.1 c.2 else m) m) = true := by
  induction cells generalizing m with
  | nil => exact hm
  | cons c rest ih =>
    simp only [List.foldl_cons]
    apply ih
    split
    · rename_i h; exact memPut_mapped hm h _
    · exact hm

/-- A reset's memory lists only bytes that exist. -/
theorem drawMemory_mapped (P : Params) (cells : List Host.Cell) : memMapped P (drawMemory P cells) = true :=
  drawMemory_fold_mapped P cells rfl

/-! ### 32-bit locations -/

theorem memStore32_wf {m : Memory} (hm : memWf m = true) (a : Nat) (v : Word32) : memWf (memStore32 m a v) = true :=
  memPut_wf (memPut_wf (memPut_wf (memPut_wf hm _ _) _ _) _ _) _ _

theorem memByte_memStore32_ne (m : Memory) {a b : Nat} (h : b < a ∨ a + 4 ≤ b) (v : Word32) :
    memByte (memStore32 m a v) b = memByte m b := by
  unfold memStore32
  rw [memByte_memPut_ne _ (by omega), memByte_memPut_ne _ (by omega), memByte_memPut_ne _ (by omega),
    memByte_memPut_ne _ (by omega)]

theorem word32_of_bytes (v : Word32) :
    (v.extractLsb' 24 8 ++ v.extractLsb' 16 8 ++ v.extractLsb' 8 8 ++ v.extractLsb' 0 8 : BitVec 32) = v := by
  rw [BitVec.extractLsb'_append_extractLsb'_eq_extractLsb' (by rfl),
    BitVec.extractLsb'_append_extractLsb'_eq_extractLsb' (by rfl),
    BitVec.extractLsb'_append_extractLsb'_eq_extractLsb' (by rfl)]
  exact BitVec.extractLsb'_eq_self

/-- A stored location reads back. -/
theorem memLoad32_memStore32_self {m : Memory} (hm : memWf m = true) (a : Nat) (v : Word32) :
    memLoad32 (memStore32 m a v) a = v := by
  have h0 := hm
  have h1 := memPut_wf h0 a (v.extractLsb' 0 8)
  have h2 := memPut_wf h1 (a + 1) (v.extractLsb' 8 8)
  have h3 := memPut_wf h2 (a + 2) (v.extractLsb' 16 8)
  unfold memLoad32 memStore32
  rw [memByte_memPut_self h3]
  rw [memByte_memPut_ne _ (by omega), memByte_memPut_self h2]
  rw [memByte_memPut_ne _ (by omega), memByte_memPut_ne _ (by omega), memByte_memPut_self h1]
  rw [memByte_memPut_ne _ (by omega), memByte_memPut_ne _ (by omega), memByte_memPut_ne _ (by omega),
    memByte_memPut_self h0]
  exact word32_of_bytes v

/-- Storing a location leaves every disjoint location alone. -/
theorem memLoad32_memStore32_ne (m : Memory) {a b : Nat} (h : b + 4 ≤ a ∨ a + 4 ≤ b) (v : Word32) :
    memLoad32 (memStore32 m a v) b = memLoad32 m b := by
  unfold memLoad32
  rw [memByte_memStore32_ne m (by omega), memByte_memStore32_ne m (by omega), memByte_memStore32_ne m (by omega),
    memByte_memStore32_ne m (by omega)]

theorem memStore32_mapped {P : Params} {m : Memory} (hm : memMapped P m = true) {a : Nat}
    (ha : ∀ k < 4, mappedByte P (a + k) = true) (v : Word32) : memMapped P (memStore32 m a v) = true :=
  memPut_mapped (memPut_mapped (memPut_mapped (memPut_mapped hm (ha 0 (by omega)) _) (ha 1 (by omega)) _)
    (ha 2 (by omega)) _) (ha 3 (by omega)) _

/-! ### 64-bit slots -/

theorem memStore64_wf {m : Memory} (hm : memWf m = true) (a : Nat) (v : Word) : memWf (memStore64 m a v) = true :=
  memStore32_wf (memStore32_wf hm _ _) _ _

theorem memByte_memStore64_ne (m : Memory) {a b : Nat} (h : b < a ∨ a + 8 ≤ b) (v : Word) :
    memByte (memStore64 m a v) b = memByte m b := by
  unfold memStore64
  rw [memByte_memStore32_ne _ (by omega), memByte_memStore32_ne _ (by omega)]

theorem word_of_halves (v : Word) : (v.extractLsb' 32 32 ++ v.extractLsb' 0 32 : BitVec 64) = v := by
  rw [BitVec.extractLsb'_append_extractLsb'_eq_extractLsb' (by rfl)]
  exact BitVec.extractLsb'_eq_self

/-- A stored slot reads back. -/
theorem memLoad64_memStore64_self {m : Memory} (hm : memWf m = true) (a : Nat) (v : Word) :
    memLoad64 (memStore64 m a v) a = v := by
  unfold memLoad64 memStore64
  rw [memLoad32_memStore32_self (memStore32_wf hm _ _), memLoad32_memStore32_ne _ (by omega),
    memLoad32_memStore32_self hm]
  exact word_of_halves v

/-- Storing a slot leaves every disjoint slot alone. -/
theorem memLoad64_memStore64_ne (m : Memory) {a b : Nat} (h : b + 8 ≤ a ∨ a + 8 ≤ b) (v : Word) :
    memLoad64 (memStore64 m a v) b = memLoad64 m b := by
  unfold memLoad64 memStore64
  rw [memLoad32_memStore32_ne _ (by omega), memLoad32_memStore32_ne _ (by omega),
    memLoad32_memStore32_ne _ (by omega), memLoad32_memStore32_ne _ (by omega)]

theorem memStore64_mapped {P : Params} {m : Memory} (hm : memMapped P m = true) {a : Nat}
    (ha : ∀ k < 8, mappedByte P (a + k) = true) (v : Word) : memMapped P (memStore64 m a v) = true := by
  refine memStore32_mapped (memStore32_mapped hm (fun k hk => ha k (by omega)) _) (fun k hk => ?_) _
  have := ha (4 + k) (by omega)
  rwa [← Nat.add_assoc] at this

/-! ### Rows -/

theorem rowStore_wf {m : Memory} (hm : memWf m = true) (r : Nat) (g : Grp64) : memWf (rowStore m r g) = true :=
  memStore64_wf (memStore64_wf (memStore64_wf (memStore64_wf hm _ _) _ _) _ _) _ _

/-- Storing a row leaves every byte outside it alone. -/
theorem memByte_rowStore_ne (m : Memory) {r a : Nat} (h : a < rowOffset r ∨ rowOffset (r + 1) ≤ a) (g : Grp64) :
    memByte (rowStore m r g) a = memByte m a := by
  unfold rowStore
  unfold rowOffset at *
  rw [memByte_memStore64_ne _ (by omega), memByte_memStore64_ne _ (by omega), memByte_memStore64_ne _ (by omega),
    memByte_memStore64_ne _ (by omega)]

/-- A stored row reads back. -/
theorem rowLoad_rowStore_self {m : Memory} (hm : memWf m = true) (r : Nat) (g : Grp64) :
    rowLoad (rowStore m r g) r = g := by
  have h1 := memStore64_wf hm (rowOffset r) g.b0
  have h2 := memStore64_wf h1 (rowOffset r + 8) g.b1
  have h3 := memStore64_wf h2 (rowOffset r + 16) g.b2
  obtain ⟨p0, p1, p2, p3⟩ := g
  unfold rowLoad rowStore
  rw [Grp64.mk.injEq]
  generalize rowOffset r = o at *
  refine ⟨?_, ?_, ?_, ?_⟩
  · rw [memLoad64_memStore64_ne _ (by omega), memLoad64_memStore64_ne _ (by omega),
      memLoad64_memStore64_ne _ (by omega), memLoad64_memStore64_self hm]
  · rw [memLoad64_memStore64_ne _ (by omega), memLoad64_memStore64_ne _ (by omega), memLoad64_memStore64_self h1]
  · rw [memLoad64_memStore64_ne _ (by omega), memLoad64_memStore64_self h2]
  · exact memLoad64_memStore64_self h3 _ _

/-- Storing a row leaves every other row alone. -/
theorem rowLoad_rowStore_ne (m : Memory) {r q : Nat} (h : q ≠ r) (g : Grp64) :
    rowLoad (rowStore m r g) q = rowLoad m q := by
  have hd : rowOffset q + 32 ≤ rowOffset r ∨ rowOffset r + 32 ≤ rowOffset q := by
    unfold rowOffset; omega
  unfold rowLoad rowStore
  rw [Grp64.mk.injEq]
  generalize rowOffset r = o at *
  generalize rowOffset q = o' at *
  refine ⟨?_, ?_, ?_, ?_⟩ <;>
    rw [memLoad64_memStore64_ne _ (by omega), memLoad64_memStore64_ne _ (by omega),
      memLoad64_memStore64_ne _ (by omega), memLoad64_memStore64_ne _ (by omega)]

theorem mappedByte_row {P : Params} {r : Nat} (h : r < P.rowmemRows) {a : Nat} (h1 : rowOffset r ≤ a)
    (h2 : a < rowOffset (r + 1)) : mappedByte P a = true := by
  unfold rowOffset at h1 h2
  unfold mappedByte
  have hw : (decide (Config.rowBase ≤ a) && decide (a < Config.rowBase + 32 * P.rowmemRows)) = true := by
    simp only [Bool.and_eq_true, decide_eq_true_eq]
    omega
  rw [hw, Bool.or_true]

theorem rowStore_mapped {P : Params} {m : Memory} (hm : memMapped P m = true) {r : Nat} (h : r < P.rowmemRows)
    (g : Grp64) : memMapped P (rowStore m r g) = true := by
  have hb : ∀ k < 32, mappedByte P (rowOffset r + k) = true := fun k hk =>
    mappedByte_row h (by omega) (by unfold rowOffset; omega)
  unfold rowStore
  generalize rowOffset r = o at *
  refine memStore64_mapped (memStore64_mapped (memStore64_mapped (memStore64_mapped hm ?_ _) ?_ _) ?_ _) ?_ _ <;>
    intro k hk
  · exact hb k (by omega)
  · rw [Nat.add_assoc]; exact hb _ (by omega)
  · rw [Nat.add_assoc]; exact hb _ (by omega)
  · rw [Nat.add_assoc]; exact hb _ (by omega)

/-! ### Runs of rows -/

theorem rowsStore_wf {m : Memory} (hm : memWf m = true) (r : Nat) (gs : List Grp64) :
    memWf (rowsStore m r gs) = true := by
  induction gs generalizing m r with
  | nil => exact hm
  | cons g rest ih =>
    simp only [rowsStore]
    apply ih
    exact rowStore_wf hm r g

/-- Storing rows r, r + 1, … leaves every byte outside them alone. -/
theorem memByte_rowsStore_ne (m : Memory) {r a : Nat} (gs : List Grp64)
    (h : a < rowOffset r ∨ rowOffset (r + gs.length) ≤ a) : memByte (rowsStore m r gs) a = memByte m a := by
  induction gs generalizing m r with
  | nil => rfl
  | cons g rest ih =>
    simp only [rowsStore, List.length_cons] at *
    have h1 : rowOffset r ≤ rowOffset (r + 1) := by unfold rowOffset; omega
    have h2 : rowOffset (r + 1) ≤ rowOffset (r + (rest.length + 1)) := by unfold rowOffset; omega
    rw [show r + (rest.length + 1) = r + 1 + rest.length by omega] at h h2
    exact (ih (rowStore m r g) (h.imp_left fun h => Nat.lt_of_lt_of_le h h1)).trans
      (memByte_rowStore_ne m (h.imp_right fun h => Nat.le_trans h2 h) g)

/-- Storing rows r, r + 1, … leaves every other row alone. -/
theorem rowLoad_rowsStore_ne (m : Memory) {r q : Nat} (gs : List Grp64) (h : q < r ∨ r + gs.length ≤ q) :
    rowLoad (rowsStore m r gs) q = rowLoad m q := by
  induction gs generalizing m r with
  | nil => rfl
  | cons g rest ih =>
    simp only [rowsStore, List.length_cons] at *
    rw [ih (rowStore m r g) (by omega), rowLoad_rowStore_ne m (by omega)]

/-- Stored rows read back. -/
theorem rowLoad_rowsStore {m : Memory} (hm : memWf m = true) (r : Nat) (gs : List Grp64) (k : Nat)
    (hk : k < gs.length) : rowLoad (rowsStore m r gs) (r + k) = gs[k] := by
  induction gs generalizing m r k with
  | nil => simp at hk
  | cons g rest ih =>
    simp only [rowsStore]
    cases k with
    | zero =>
      rw [rowLoad_rowsStore_ne _ _ (by omega)]
      exact rowLoad_rowStore_self hm r g
    | succ k =>
      have := ih (rowStore_wf hm r g) (r + 1) k (by simpa using hk)
      rw [show r + (k + 1) = r + 1 + k by omega, this]
      rfl

theorem rowsStore_mapped {P : Params} {m : Memory} (hm : memMapped P m = true) {r : Nat} (gs : List Grp64)
    (h : r + gs.length ≤ P.rowmemRows) : memMapped P (rowsStore m r gs) = true := by
  induction gs generalizing m r with
  | nil => exact hm
  | cons g rest ih =>
    simp only [rowsStore, List.length_cons] at *
    exact ih (rowStore_mapped hm (by omega) g) (by omega)

@[simp] theorem rowsLoad_length (m : Memory) (r n : Nat) : (rowsLoad m r n).length = n := by
  simp [rowsLoad]

@[simp] theorem rowsLoad_getElem (m : Memory) (r n k : Nat) (h : k < (rowsLoad m r n).length) :
    (rowsLoad m r n)[k] = rowLoad m (r + k) := by
  simp [rowsLoad]

/-- The rows just stored, read as a run. -/
theorem rowsLoad_rowsStore {m : Memory} (hm : memWf m = true) (r : Nat) (gs : List Grp64) :
    rowsLoad (rowsStore m r gs) r gs.length = gs := by
  apply List.ext_getElem
  · simp
  · intro k h1 h2
    rw [rowsLoad_getElem, rowLoad_rowsStore hm r gs k h2]

end Sys2Proof.Machine
end

