-- ==== Sys2Proof/Laws/HostPort.lean ====
section
/-! SUPPORT. The host port: which slot each offset of the map names (20_memory.md R72), and what the idle host's accesses to
a slot do. -/

namespace Sys2Proof.Machine

/-! ### The address map -/

theorem slotAt_x (P : Params) (n : XReg) (width : Nat) : slotAt P (0x100 + 8 * n.val) width = some (.xSlot n) := by
  have h : Fin.ofNat 16 ((0x100 + 8 * n.val - 0x100) / 8) = n := Fin.ext (by simp only [Fin.ofNat]; omega)
  rw [slotAt, if_neg (by omega), if_pos (by omega), h]

theorem slotAt_g (P : Params) (n : GReg) (p : Fin 4) (width : Nat) :
    slotAt P (0x200 + 32 * n.val + 8 * p.val) width = some (.gSlot n p) := by
  have hn : Fin.ofNat 16 ((0x200 + 32 * n.val + 8 * p.val - 0x200) / 32) = n := Fin.ext (by simp only [Fin.ofNat]; omega)
  have hp : Fin.ofNat 4 ((0x200 + 32 * n.val + 8 * p.val - 0x200) / 8) = p := Fin.ext (by simp only [Fin.ofNat]; omega)
  rw [slotAt, if_neg (by omega), if_neg (by omega), if_neg (by omega), if_pos (by omega), hn, hp]

theorem slotAt_m (P : Params) (n : MReg) (r : Fin 64) (p : Fin 4) (width : Nat) :
    slotAt P (0x10000 + 0x800 * n.val + 32 * r.val + 8 * p.val) width = some (.mSlot n r p) := by
  have hn : Fin.ofNat 8 ((0x10000 + 0x800 * n.val + 32 * r.val + 8 * p.val - 0x10000) / 0x800) = n :=
    Fin.ext (by simp only [Fin.ofNat]; omega)
  have hr : Fin.ofNat 64 ((0x10000 + 0x800 * n.val + 32 * r.val + 8 * p.val - 0x10000) / 32) = r :=
    Fin.ext (by simp only [Fin.ofNat]; omega)
  have hp : Fin.ofNat 4 ((0x10000 + 0x800 * n.val + 32 * r.val + 8 * p.val - 0x10000) / 8) = p :=
    Fin.ext (by simp only [Fin.ofNat]; omega)
  rw [slotAt, if_neg (by omega), if_neg (by omega), if_neg (by omega), if_neg (by omega), if_neg (by omega),
    if_pos (by omega), hn, hr, hp]

theorem mappedByte_iff {P : Params} {a : Nat} :
    mappedByte P a = true ↔
      (0x20000 ≤ a ∧ a < 0x20000 + 4 * P.cmdWords) ∨ (0x30000 ≤ a ∧ a < 0x30000 + 4 * P.idxEntries) ∨
        (0x1000000 ≤ a ∧ a < 0x1000000 + 32 * P.rowmemRows) := by
  simp [mappedByte, Config.cmdBase, Config.idxBase, Config.rowBase, or_assoc]

/-- An access whose bytes all exist reaches the memories. -/
theorem slotAt_memory {P : Params} {off width : Nat} (hw : 0 < width)
    (h : ∀ k < width, mappedByte P (off + k) = true) : slotAt P off width = some .memory := by
  have h0 := mappedByte_iff.mp (h 0 hw)
  have ha : ((List.range width).all fun k => mappedByte P (off + k)) = true := by simpa using h
  rw [slotAt, if_neg (by omega), if_neg (by omega), if_neg (by omega), if_neg (by omega), if_neg (by omega),
    if_neg (by omega), if_pos ha]

/-! ### The idle host -/

/-- A well-placed read of an idle unit answers the slot's value and changes nothing else. -/
theorem hostAccess_read_idle {s : State} {off width : Nat} {slot : Slot} (hb : s.status.busy = false)
    (hp : wellPlaced off width = true) (hs : slotAt s.params off width = some slot) :
    hostAccess s (.read off width) = { s with readData := readSlot s off width slot } := by
  simp [hostAccess, hostRead, hs, hp, hb]

/-- A well-placed write of an idle unit to a slot that is not read-only is that slot's write. -/
theorem hostAccess_write_idle {s : State} {off width : Nat} {slot : Slot} (v : Word) (hb : s.status.busy = false)
    (hp : wellPlaced off width = true) (hs : slotAt s.params off width = some slot) (hr : readOnly slot = false) :
    hostAccess s (.write off width v) = writeSlot s off width v slot := by
  simp [hostAccess, hostWrite, hs, hp, hb, hr]

theorem slotPart_whole (v : Word) (off : Nat) : slotPart v off 8 = v := rfl

theorem mergeWrite_whole (old v : Word) (off : Nat) : mergeWrite old off 8 v = v := by
  simp [mergeWrite, writeMask, writeBits, ones]

end Sys2Proof.Machine
end

