-- ==== Sys2Proof/Laws/State.lean ====
section
/-! SUPPORT. One lemma per field per update of State, and per register read per update, true by unfolding the update, so that no later
proof unfolds a record update. -/

namespace Sys2Proof.Machine

/-! ### setX -/

@[simp] theorem setX_params (s : State) (i : XReg) (v : Word) : (setX s i v).params = s.params := rfl
@[simp] theorem setX_x (s : State) (i : XReg) (v : Word) : (setX s i v).x = s.x.set i v := rfl
@[simp] theorem setX_g (s : State) (i : XReg) (v : Word) : (setX s i v).g = s.g := rfl
@[simp] theorem setX_m (s : State) (i : XReg) (v : Word) : (setX s i v).m = s.m := rfl
@[simp] theorem setX_b (s : State) (i : XReg) (v : Word) : (setX s i v).b = s.b := rfl
@[simp] theorem setX_cpc (s : State) (i : XReg) (v : Word) : (setX s i v).cpc = s.cpc := rfl
@[simp] theorem setX_status (s : State) (i : XReg) (v : Word) : (setX s i v).status = s.status := rfl
@[simp] theorem setX_irqEn (s : State) (i : XReg) (v : Word) : (setX s i v).irqEn = s.irqEn := rfl
@[simp] theorem setX_faultCode (s : State) (i : XReg) (v : Word) : (setX s i v).faultCode = s.faultCode := rfl
@[simp] theorem setX_faultPc (s : State) (i : XReg) (v : Word) : (setX s i v).faultPc = s.faultPc := rfl
@[simp] theorem setX_faultInsn (s : State) (i : XReg) (v : Word) : (setX s i v).faultInsn = s.faultInsn := rfl
@[simp] theorem setX_faultInfo (s : State) (i : XReg) (v : Word) : (setX s i v).faultInfo = s.faultInfo := rfl
@[simp] theorem setX_retired (s : State) (i : XReg) (v : Word) : (setX s i v).retired = s.retired := rfl
@[simp] theorem setX_mem (s : State) (i : XReg) (v : Word) : (setX s i v).mem = s.mem := rfl
@[simp] theorem setX_draws (s : State) (i : XReg) (v : Word) : (setX s i v).draws = s.draws := rfl
@[simp] theorem setX_inputs (s : State) (i : XReg) (v : Word) : (setX s i v).inputs = s.inputs := rfl
@[simp] theorem setX_readData (s : State) (i : XReg) (v : Word) : (setX s i v).readData = s.readData := rfl
@[simp] theorem getG_setX (s : State) (i : XReg) (v : Word) (j : GReg) : getG (setX s i v) j = getG s j := rfl
@[simp] theorem getM_setX (s : State) (i : XReg) (v : Word) (j : MReg) : getM (setX s i v) j = getM s j := rfl
@[simp] theorem getB_setX (s : State) (i : XReg) (v : Word) (j : BReg) : getB (setX s i v) j = getB s j := rfl
@[simp] theorem blockRow_setX (s : State) (i : XReg) (v : Word) (j : BReg) (k : Nat) : blockRow (setX s i v) j k = blockRow s j k := rfl
@[simp] theorem blockRows_setX (s : State) (i : XReg) (v : Word) (j : BReg) : blockRows (setX s i v) j = blockRows s j := rfl
@[simp] theorem descFits_setX (s : State) (i : XReg) (v : Word) (j : BReg) : descFits (setX s i v) j = descFits s j := rfl

/-! ### setG -/

@[simp] theorem setG_params (s : State) (i : GReg) (v : Grp64) : (setG s i v).params = s.params := rfl
@[simp] theorem setG_x (s : State) (i : GReg) (v : Grp64) : (setG s i v).x = s.x := rfl
@[simp] theorem setG_g (s : State) (i : GReg) (v : Grp64) : (setG s i v).g = s.g.set i v := rfl
@[simp] theorem setG_m (s : State) (i : GReg) (v : Grp64) : (setG s i v).m = s.m := rfl
@[simp] theorem setG_b (s : State) (i : GReg) (v : Grp64) : (setG s i v).b = s.b := rfl
@[simp] theorem setG_cpc (s : State) (i : GReg) (v : Grp64) : (setG s i v).cpc = s.cpc := rfl
@[simp] theorem setG_status (s : State) (i : GReg) (v : Grp64) : (setG s i v).status = s.status := rfl
@[simp] theorem setG_irqEn (s : State) (i : GReg) (v : Grp64) : (setG s i v).irqEn = s.irqEn := rfl
@[simp] theorem setG_faultCode (s : State) (i : GReg) (v : Grp64) : (setG s i v).faultCode = s.faultCode := rfl
@[simp] theorem setG_faultPc (s : State) (i : GReg) (v : Grp64) : (setG s i v).faultPc = s.faultPc := rfl
@[simp] theorem setG_faultInsn (s : State) (i : GReg) (v : Grp64) : (setG s i v).faultInsn = s.faultInsn := rfl
@[simp] theorem setG_faultInfo (s : State) (i : GReg) (v : Grp64) : (setG s i v).faultInfo = s.faultInfo := rfl
@[simp] theorem setG_retired (s : State) (i : GReg) (v : Grp64) : (setG s i v).retired = s.retired := rfl
@[simp] theorem setG_mem (s : State) (i : GReg) (v : Grp64) : (setG s i v).mem = s.mem := rfl
@[simp] theorem setG_draws (s : State) (i : GReg) (v : Grp64) : (setG s i v).draws = s.draws := rfl
@[simp] theorem setG_inputs (s : State) (i : GReg) (v : Grp64) : (setG s i v).inputs = s.inputs := rfl
@[simp] theorem setG_readData (s : State) (i : GReg) (v : Grp64) : (setG s i v).readData = s.readData := rfl
@[simp] theorem getX_setG (s : State) (i : GReg) (v : Grp64) (j : XReg) : getX (setG s i v) j = getX s j := rfl
@[simp] theorem getM_setG (s : State) (i : GReg) (v : Grp64) (j : MReg) : getM (setG s i v) j = getM s j := rfl
@[simp] theorem getB_setG (s : State) (i : GReg) (v : Grp64) (j : BReg) : getB (setG s i v) j = getB s j := rfl
@[simp] theorem blockRow_setG (s : State) (i : GReg) (v : Grp64) (j : BReg) (k : Nat) : blockRow (setG s i v) j k = blockRow s j k := rfl
@[simp] theorem blockRows_setG (s : State) (i : GReg) (v : Grp64) (j : BReg) : blockRows (setG s i v) j = blockRows s j := rfl
@[simp] theorem descFits_setG (s : State) (i : GReg) (v : Grp64) (j : BReg) : descFits (setG s i v) j = descFits s j := rfl

/-! ### setM -/

@[simp] theorem setM_params (s : State) (i : MReg) (v : Mat64) : (setM s i v).params = s.params := rfl
@[simp] theorem setM_x (s : State) (i : MReg) (v : Mat64) : (setM s i v).x = s.x := rfl
@[simp] theorem setM_g (s : State) (i : MReg) (v : Mat64) : (setM s i v).g = s.g := rfl
@[simp] theorem setM_m (s : State) (i : MReg) (v : Mat64) : (setM s i v).m = s.m.set i v := rfl
@[simp] theorem setM_b (s : State) (i : MReg) (v : Mat64) : (setM s i v).b = s.b := rfl
@[simp] theorem setM_cpc (s : State) (i : MReg) (v : Mat64) : (setM s i v).cpc = s.cpc := rfl
@[simp] theorem setM_status (s : State) (i : MReg) (v : Mat64) : (setM s i v).status = s.status := rfl
@[simp] theorem setM_irqEn (s : State) (i : MReg) (v : Mat64) : (setM s i v).irqEn = s.irqEn := rfl
@[simp] theorem setM_faultCode (s : State) (i : MReg) (v : Mat64) : (setM s i v).faultCode = s.faultCode := rfl
@[simp] theorem setM_faultPc (s : State) (i : MReg) (v : Mat64) : (setM s i v).faultPc = s.faultPc := rfl
@[simp] theorem setM_faultInsn (s : State) (i : MReg) (v : Mat64) : (setM s i v).faultInsn = s.faultInsn := rfl
@[simp] theorem setM_faultInfo (s : State) (i : MReg) (v : Mat64) : (setM s i v).faultInfo = s.faultInfo := rfl
@[simp] theorem setM_retired (s : State) (i : MReg) (v : Mat64) : (setM s i v).retired = s.retired := rfl
@[simp] theorem setM_mem (s : State) (i : MReg) (v : Mat64) : (setM s i v).mem = s.mem := rfl
@[simp] theorem setM_draws (s : State) (i : MReg) (v : Mat64) : (setM s i v).draws = s.draws := rfl
@[simp] theorem setM_inputs (s : State) (i : MReg) (v : Mat64) : (setM s i v).inputs = s.inputs := rfl
@[simp] theorem setM_readData (s : State) (i : MReg) (v : Mat64) : (setM s i v).readData = s.readData := rfl
@[simp] theorem getX_setM (s : State) (i : MReg) (v : Mat64) (j : XReg) : getX (setM s i v) j = getX s j := rfl
@[simp] theorem getG_setM (s : State) (i : MReg) (v : Mat64) (j : GReg) : getG (setM s i v) j = getG s j := rfl
@[simp] theorem getB_setM (s : State) (i : MReg) (v : Mat64) (j : BReg) : getB (setM s i v) j = getB s j := rfl
@[simp] theorem blockRow_setM (s : State) (i : MReg) (v : Mat64) (j : BReg) (k : Nat) : blockRow (setM s i v) j k = blockRow s j k := rfl
@[simp] theorem blockRows_setM (s : State) (i : MReg) (v : Mat64) (j : BReg) : blockRows (setM s i v) j = blockRows s j := rfl
@[simp] theorem descFits_setM (s : State) (i : MReg) (v : Mat64) (j : BReg) : descFits (setM s i v) j = descFits s j := rfl

/-! ### setB -/

@[simp] theorem setB_params (s : State) (i : BReg) (v : Desc) : (setB s i v).params = s.params := rfl
@[simp] theorem setB_x (s : State) (i : BReg) (v : Desc) : (setB s i v).x = s.x := rfl
@[simp] theorem setB_g (s : State) (i : BReg) (v : Desc) : (setB s i v).g = s.g := rfl
@[simp] theorem setB_m (s : State) (i : BReg) (v : Desc) : (setB s i v).m = s.m := rfl
@[simp] theorem setB_b (s : State) (i : BReg) (v : Desc) : (setB s i v).b = s.b.set i v := rfl
@[simp] theorem setB_cpc (s : State) (i : BReg) (v : Desc) : (setB s i v).cpc = s.cpc := rfl
@[simp] theorem setB_status (s : State) (i : BReg) (v : Desc) : (setB s i v).status = s.status := rfl
@[simp] theorem setB_irqEn (s : State) (i : BReg) (v : Desc) : (setB s i v).irqEn = s.irqEn := rfl
@[simp] theorem setB_faultCode (s : State) (i : BReg) (v : Desc) : (setB s i v).faultCode = s.faultCode := rfl
@[simp] theorem setB_faultPc (s : State) (i : BReg) (v : Desc) : (setB s i v).faultPc = s.faultPc := rfl
@[simp] theorem setB_faultInsn (s : State) (i : BReg) (v : Desc) : (setB s i v).faultInsn = s.faultInsn := rfl
@[simp] theorem setB_faultInfo (s : State) (i : BReg) (v : Desc) : (setB s i v).faultInfo = s.faultInfo := rfl
@[simp] theorem setB_retired (s : State) (i : BReg) (v : Desc) : (setB s i v).retired = s.retired := rfl
@[simp] theorem setB_mem (s : State) (i : BReg) (v : Desc) : (setB s i v).mem = s.mem := rfl
@[simp] theorem setB_draws (s : State) (i : BReg) (v : Desc) : (setB s i v).draws = s.draws := rfl
@[simp] theorem setB_inputs (s : State) (i : BReg) (v : Desc) : (setB s i v).inputs = s.inputs := rfl
@[simp] theorem setB_readData (s : State) (i : BReg) (v : Desc) : (setB s i v).readData = s.readData := rfl
@[simp] theorem getX_setB (s : State) (i : BReg) (v : Desc) (j : XReg) : getX (setB s i v) j = getX s j := rfl
@[simp] theorem getG_setB (s : State) (i : BReg) (v : Desc) (j : GReg) : getG (setB s i v) j = getG s j := rfl
@[simp] theorem getM_setB (s : State) (i : BReg) (v : Desc) (j : MReg) : getM (setB s i v) j = getM s j := rfl

/-! ### setBlockRow -/

@[simp] theorem setBlockRow_params (s : State) (i : BReg) (r : Nat) (v : Grp64) : (setBlockRow s i r v).params = s.params := by simp only [setBlockRow]
@[simp] theorem setBlockRow_x (s : State) (i : BReg) (r : Nat) (v : Grp64) : (setBlockRow s i r v).x = s.x := by simp only [setBlockRow]
@[simp] theorem setBlockRow_g (s : State) (i : BReg) (r : Nat) (v : Grp64) : (setBlockRow s i r v).g = s.g := by simp only [setBlockRow]
@[simp] theorem setBlockRow_m (s : State) (i : BReg) (r : Nat) (v : Grp64) : (setBlockRow s i r v).m = s.m := by simp only [setBlockRow]
@[simp] theorem setBlockRow_b (s : State) (i : BReg) (r : Nat) (v : Grp64) : (setBlockRow s i r v).b = s.b := by simp only [setBlockRow]
@[simp] theorem setBlockRow_cpc (s : State) (i : BReg) (r : Nat) (v : Grp64) : (setBlockRow s i r v).cpc = s.cpc := by simp only [setBlockRow]
@[simp] theorem setBlockRow_status (s : State) (i : BReg) (r : Nat) (v : Grp64) : (setBlockRow s i r v).status = s.status := by simp only [setBlockRow]
@[simp] theorem setBlockRow_irqEn (s : State) (i : BReg) (r : Nat) (v : Grp64) : (setBlockRow s i r v).irqEn = s.irqEn := by simp only [setBlockRow]
@[simp] theorem setBlockRow_faultCode (s : State) (i : BReg) (r : Nat) (v : Grp64) : (setBlockRow s i r v).faultCode = s.faultCode := by simp only [setBlockRow]
@[simp] theorem setBlockRow_faultPc (s : State) (i : BReg) (r : Nat) (v : Grp64) : (setBlockRow s i r v).faultPc = s.faultPc := by simp only [setBlockRow]
@[simp] theorem setBlockRow_faultInsn (s : State) (i : BReg) (r : Nat) (v : Grp64) : (setBlockRow s i r v).faultInsn = s.faultInsn := by simp only [setBlockRow]
@[simp] theorem setBlockRow_faultInfo (s : State) (i : BReg) (r : Nat) (v : Grp64) : (setBlockRow s i r v).faultInfo = s.faultInfo := by simp only [setBlockRow]
@[simp] theorem setBlockRow_retired (s : State) (i : BReg) (r : Nat) (v : Grp64) : (setBlockRow s i r v).retired = s.retired := by simp only [setBlockRow]
@[simp] theorem setBlockRow_mem (s : State) (i : BReg) (r : Nat) (v : Grp64) : (setBlockRow s i r v).mem = rowStore s.mem ((getB s i).base.toNat + r) v := by simp only [setBlockRow]
@[simp] theorem setBlockRow_draws (s : State) (i : BReg) (r : Nat) (v : Grp64) : (setBlockRow s i r v).draws = s.draws := by simp only [setBlockRow]
@[simp] theorem setBlockRow_inputs (s : State) (i : BReg) (r : Nat) (v : Grp64) : (setBlockRow s i r v).inputs = s.inputs := by simp only [setBlockRow]
@[simp] theorem setBlockRow_readData (s : State) (i : BReg) (r : Nat) (v : Grp64) : (setBlockRow s i r v).readData = s.readData := by simp only [setBlockRow]
@[simp] theorem getX_setBlockRow (s : State) (i : BReg) (r : Nat) (v : Grp64) (j : XReg) : getX (setBlockRow s i r v) j = getX s j := by simp only [getX, setBlockRow]
@[simp] theorem getG_setBlockRow (s : State) (i : BReg) (r : Nat) (v : Grp64) (j : GReg) : getG (setBlockRow s i r v) j = getG s j := by simp only [getG, setBlockRow]
@[simp] theorem getM_setBlockRow (s : State) (i : BReg) (r : Nat) (v : Grp64) (j : MReg) : getM (setBlockRow s i r v) j = getM s j := by simp only [getM, setBlockRow]
@[simp] theorem getB_setBlockRow (s : State) (i : BReg) (r : Nat) (v : Grp64) (j : BReg) : getB (setBlockRow s i r v) j = getB s j := by simp only [getB, setBlockRow]
@[simp] theorem descFits_setBlockRow (s : State) (i : BReg) (r : Nat) (v : Grp64) (j : BReg) : descFits (setBlockRow s i r v) j = descFits s j := by simp [descFits]

/-! ### setBlockRows -/

@[simp] theorem setBlockRows_params (s : State) (i : BReg) (vs : List Grp64) : (setBlockRows s i vs).params = s.params := by simp only [setBlockRows]
@[simp] theorem setBlockRows_x (s : State) (i : BReg) (vs : List Grp64) : (setBlockRows s i vs).x = s.x := by simp only [setBlockRows]
@[simp] theorem setBlockRows_g (s : State) (i : BReg) (vs : List Grp64) : (setBlockRows s i vs).g = s.g := by simp only [setBlockRows]
@[simp] theorem setBlockRows_m (s : State) (i : BReg) (vs : List Grp64) : (setBlockRows s i vs).m = s.m := by simp only [setBlockRows]
@[simp] theorem setBlockRows_b (s : State) (i : BReg) (vs : List Grp64) : (setBlockRows s i vs).b = s.b := by simp only [setBlockRows]
@[simp] theorem setBlockRows_cpc (s : State) (i : BReg) (vs : List Grp64) : (setBlockRows s i vs).cpc = s.cpc := by simp only [setBlockRows]
@[simp] theorem setBlockRows_status (s : State) (i : BReg) (vs : List Grp64) : (setBlockRows s i vs).status = s.status := by simp only [setBlockRows]
@[simp] theorem setBlockRows_irqEn (s : State) (i : BReg) (vs : List Grp64) : (setBlockRows s i vs).irqEn = s.irqEn := by simp only [setBlockRows]
@[simp] theorem setBlockRows_faultCode (s : State) (i : BReg) (vs : List Grp64) : (setBlockRows s i vs).faultCode = s.faultCode := by simp only [setBlockRows]
@[simp] theorem setBlockRows_faultPc (s : State) (i : BReg) (vs : List Grp64) : (setBlockRows s i vs).faultPc = s.faultPc := by simp only [setBlockRows]
@[simp] theorem setBlockRows_faultInsn (s : State) (i : BReg) (vs : List Grp64) : (setBlockRows s i vs).faultInsn = s.faultInsn := by simp only [setBlockRows]
@[simp] theorem setBlockRows_faultInfo (s : State) (i : BReg) (vs : List Grp64) : (setBlockRows s i vs).faultInfo = s.faultInfo := by simp only [setBlockRows]
@[simp] theorem setBlockRows_retired (s : State) (i : BReg) (vs : List Grp64) : (setBlockRows s i vs).retired = s.retired := by simp only [setBlockRows]
@[simp] theorem setBlockRows_mem (s : State) (i : BReg) (vs : List Grp64) : (setBlockRows s i vs).mem = rowsStore s.mem (getB s i).base.toNat vs := by simp only [setBlockRows]
@[simp] theorem setBlockRows_draws (s : State) (i : BReg) (vs : List Grp64) : (setBlockRows s i vs).draws = s.draws := by simp only [setBlockRows]
@[simp] theorem setBlockRows_inputs (s : State) (i : BReg) (vs : List Grp64) : (setBlockRows s i vs).inputs = s.inputs := by simp only [setBlockRows]
@[simp] theorem setBlockRows_readData (s : State) (i : BReg) (vs : List Grp64) : (setBlockRows s i vs).readData = s.readData := by simp only [setBlockRows]
@[simp] theorem getX_setBlockRows (s : State) (i : BReg) (vs : List Grp64) (j : XReg) : getX (setBlockRows s i vs) j = getX s j := by simp only [getX, setBlockRows]
@[simp] theorem getG_setBlockRows (s : State) (i : BReg) (vs : List Grp64) (j : GReg) : getG (setBlockRows s i vs) j = getG s j := by simp only [getG, setBlockRows]
@[simp] theorem getM_setBlockRows (s : State) (i : BReg) (vs : List Grp64) (j : MReg) : getM (setBlockRows s i vs) j = getM s j := by simp only [getM, setBlockRows]
@[simp] theorem getB_setBlockRows (s : State) (i : BReg) (vs : List Grp64) (j : BReg) : getB (setBlockRows s i vs) j = getB s j := by simp only [getB, setBlockRows]
@[simp] theorem descFits_setBlockRows (s : State) (i : BReg) (vs : List Grp64) (j : BReg) : descFits (setBlockRows s i vs) j = descFits s j := by simp [descFits]

/-! ### takeDraws -/

@[simp] theorem takeDraws_params (s : State) (n : Nat) : (takeDraws s n).params = s.params := rfl
@[simp] theorem takeDraws_x (s : State) (n : Nat) : (takeDraws s n).x = s.x := rfl
@[simp] theorem takeDraws_g (s : State) (n : Nat) : (takeDraws s n).g = s.g := rfl
@[simp] theorem takeDraws_m (s : State) (n : Nat) : (takeDraws s n).m = s.m := rfl
@[simp] theorem takeDraws_b (s : State) (n : Nat) : (takeDraws s n).b = s.b := rfl
@[simp] theorem takeDraws_cpc (s : State) (n : Nat) : (takeDraws s n).cpc = s.cpc := rfl
@[simp] theorem takeDraws_status (s : State) (n : Nat) : (takeDraws s n).status = s.status := rfl
@[simp] theorem takeDraws_irqEn (s : State) (n : Nat) : (takeDraws s n).irqEn = s.irqEn := rfl
@[simp] theorem takeDraws_faultCode (s : State) (n : Nat) : (takeDraws s n).faultCode = s.faultCode := rfl
@[simp] theorem takeDraws_faultPc (s : State) (n : Nat) : (takeDraws s n).faultPc = s.faultPc := rfl
@[simp] theorem takeDraws_faultInsn (s : State) (n : Nat) : (takeDraws s n).faultInsn = s.faultInsn := rfl
@[simp] theorem takeDraws_faultInfo (s : State) (n : Nat) : (takeDraws s n).faultInfo = s.faultInfo := rfl
@[simp] theorem takeDraws_retired (s : State) (n : Nat) : (takeDraws s n).retired = s.retired := rfl
@[simp] theorem takeDraws_mem (s : State) (n : Nat) : (takeDraws s n).mem = s.mem := rfl
@[simp] theorem takeDraws_draws (s : State) (n : Nat) : (takeDraws s n).draws = s.draws + n := rfl
@[simp] theorem takeDraws_inputs (s : State) (n : Nat) : (takeDraws s n).inputs = s.inputs := rfl
@[simp] theorem takeDraws_readData (s : State) (n : Nat) : (takeDraws s n).readData = s.readData := rfl
@[simp] theorem getX_takeDraws (s : State) (n : Nat) (j : XReg) : getX (takeDraws s n) j = getX s j := rfl
@[simp] theorem getG_takeDraws (s : State) (n : Nat) (j : GReg) : getG (takeDraws s n) j = getG s j := rfl
@[simp] theorem getM_takeDraws (s : State) (n : Nat) (j : MReg) : getM (takeDraws s n) j = getM s j := rfl
@[simp] theorem getB_takeDraws (s : State) (n : Nat) (j : BReg) : getB (takeDraws s n) j = getB s j := rfl
@[simp] theorem blockRow_takeDraws (s : State) (n : Nat) (j : BReg) (k : Nat) : blockRow (takeDraws s n) j k = blockRow s j k := rfl
@[simp] theorem blockRows_takeDraws (s : State) (n : Nat) (j : BReg) : blockRows (takeDraws s n) j = blockRows s j := rfl
@[simp] theorem descFits_takeDraws (s : State) (n : Nat) (j : BReg) : descFits (takeDraws s n) j = descFits s j := rfl

/-! ### retire -/

@[simp] theorem retire_params (s : State) : (retire s).params = s.params := rfl
@[simp] theorem retire_x (s : State) : (retire s).x = s.x := rfl
@[simp] theorem retire_g (s : State) : (retire s).g = s.g := rfl
@[simp] theorem retire_m (s : State) : (retire s).m = s.m := rfl
@[simp] theorem retire_b (s : State) : (retire s).b = s.b := rfl
@[simp] theorem retire_cpc (s : State) : (retire s).cpc = s.cpc + 1 := rfl
@[simp] theorem retire_status (s : State) : (retire s).status = s.status := rfl
@[simp] theorem retire_irqEn (s : State) : (retire s).irqEn = s.irqEn := rfl
@[simp] theorem retire_faultCode (s : State) : (retire s).faultCode = s.faultCode := rfl
@[simp] theorem retire_faultPc (s : State) : (retire s).faultPc = s.faultPc := rfl
@[simp] theorem retire_faultInsn (s : State) : (retire s).faultInsn = s.faultInsn := rfl
@[simp] theorem retire_faultInfo (s : State) : (retire s).faultInfo = s.faultInfo := rfl
@[simp] theorem retire_retired (s : State) : (retire s).retired = s.retired + 1 := rfl
@[simp] theorem retire_mem (s : State) : (retire s).mem = s.mem := rfl
@[simp] theorem retire_draws (s : State) : (retire s).draws = s.draws := rfl
@[simp] theorem retire_inputs (s : State) : (retire s).inputs = s.inputs := rfl
@[simp] theorem retire_readData (s : State) : (retire s).readData = s.readData := rfl
@[simp] theorem getX_retire (s : State) (j : XReg) : getX (retire s) j = getX s j := rfl
@[simp] theorem getG_retire (s : State) (j : GReg) : getG (retire s) j = getG s j := rfl
@[simp] theorem getM_retire (s : State) (j : MReg) : getM (retire s) j = getM s j := rfl
@[simp] theorem getB_retire (s : State) (j : BReg) : getB (retire s) j = getB s j := rfl
@[simp] theorem blockRow_retire (s : State) (j : BReg) (k : Nat) : blockRow (retire s) j k = blockRow s j k := rfl
@[simp] theorem blockRows_retire (s : State) (j : BReg) : blockRows (retire s) j = blockRows s j := rfl
@[simp] theorem descFits_retire (s : State) (j : BReg) : descFits (retire s) j = descFits s j := rfl

/-! ### setHerr -/

@[simp] theorem setHerr_params (s : State) : (setHerr s).params = s.params := rfl
@[simp] theorem setHerr_x (s : State) : (setHerr s).x = s.x := rfl
@[simp] theorem setHerr_g (s : State) : (setHerr s).g = s.g := rfl
@[simp] theorem setHerr_m (s : State) : (setHerr s).m = s.m := rfl
@[simp] theorem setHerr_b (s : State) : (setHerr s).b = s.b := rfl
@[simp] theorem setHerr_cpc (s : State) : (setHerr s).cpc = s.cpc := rfl
@[simp] theorem setHerr_status (s : State) : (setHerr s).status = { s.status with herr := true } := rfl
@[simp] theorem setHerr_irqEn (s : State) : (setHerr s).irqEn = s.irqEn := rfl
@[simp] theorem setHerr_faultCode (s : State) : (setHerr s).faultCode = s.faultCode := rfl
@[simp] theorem setHerr_faultPc (s : State) : (setHerr s).faultPc = s.faultPc := rfl
@[simp] theorem setHerr_faultInsn (s : State) : (setHerr s).faultInsn = s.faultInsn := rfl
@[simp] theorem setHerr_faultInfo (s : State) : (setHerr s).faultInfo = s.faultInfo := rfl
@[simp] theorem setHerr_retired (s : State) : (setHerr s).retired = s.retired := rfl
@[simp] theorem setHerr_mem (s : State) : (setHerr s).mem = s.mem := rfl
@[simp] theorem setHerr_draws (s : State) : (setHerr s).draws = s.draws := rfl
@[simp] theorem setHerr_inputs (s : State) : (setHerr s).inputs = s.inputs := rfl
@[simp] theorem setHerr_readData (s : State) : (setHerr s).readData = s.readData := rfl
@[simp] theorem getX_setHerr (s : State) (j : XReg) : getX (setHerr s) j = getX s j := rfl
@[simp] theorem getG_setHerr (s : State) (j : GReg) : getG (setHerr s) j = getG s j := rfl
@[simp] theorem getM_setHerr (s : State) (j : MReg) : getM (setHerr s) j = getM s j := rfl
@[simp] theorem getB_setHerr (s : State) (j : BReg) : getB (setHerr s) j = getB s j := rfl
@[simp] theorem blockRow_setHerr (s : State) (j : BReg) (k : Nat) : blockRow (setHerr s) j k = blockRow s j k := rfl
@[simp] theorem blockRows_setHerr (s : State) (j : BReg) : blockRows (setHerr s) j = blockRows s j := rfl
@[simp] theorem descFits_setHerr (s : State) (j : BReg) : descFits (setHerr s) j = descFits s j := rfl

/-! ### setAllocfail -/

@[simp] theorem setAllocfail_params (s : State) : (setAllocfail s).params = s.params := rfl
@[simp] theorem setAllocfail_x (s : State) : (setAllocfail s).x = s.x := rfl
@[simp] theorem setAllocfail_g (s : State) : (setAllocfail s).g = s.g := rfl
@[simp] theorem setAllocfail_m (s : State) : (setAllocfail s).m = s.m := rfl
@[simp] theorem setAllocfail_b (s : State) : (setAllocfail s).b = s.b := rfl
@[simp] theorem setAllocfail_cpc (s : State) : (setAllocfail s).cpc = s.cpc := rfl
@[simp] theorem setAllocfail_status (s : State) : (setAllocfail s).status = { s.status with allocfail := true } := rfl
@[simp] theorem setAllocfail_irqEn (s : State) : (setAllocfail s).irqEn = s.irqEn := rfl
@[simp] theorem setAllocfail_faultCode (s : State) : (setAllocfail s).faultCode = s.faultCode := rfl
@[simp] theorem setAllocfail_faultPc (s : State) : (setAllocfail s).faultPc = s.faultPc := rfl
@[simp] theorem setAllocfail_faultInsn (s : State) : (setAllocfail s).faultInsn = s.faultInsn := rfl
@[simp] theorem setAllocfail_faultInfo (s : State) : (setAllocfail s).faultInfo = s.faultInfo := rfl
@[simp] theorem setAllocfail_retired (s : State) : (setAllocfail s).retired = s.retired := rfl
@[simp] theorem setAllocfail_mem (s : State) : (setAllocfail s).mem = s.mem := rfl
@[simp] theorem setAllocfail_draws (s : State) : (setAllocfail s).draws = s.draws := rfl
@[simp] theorem setAllocfail_inputs (s : State) : (setAllocfail s).inputs = s.inputs := rfl
@[simp] theorem setAllocfail_readData (s : State) : (setAllocfail s).readData = s.readData := rfl
@[simp] theorem getX_setAllocfail (s : State) (j : XReg) : getX (setAllocfail s) j = getX s j := rfl
@[simp] theorem getG_setAllocfail (s : State) (j : GReg) : getG (setAllocfail s) j = getG s j := rfl
@[simp] theorem getM_setAllocfail (s : State) (j : MReg) : getM (setAllocfail s) j = getM s j := rfl
@[simp] theorem getB_setAllocfail (s : State) (j : BReg) : getB (setAllocfail s) j = getB s j := rfl
@[simp] theorem blockRow_setAllocfail (s : State) (j : BReg) (k : Nat) : blockRow (setAllocfail s) j k = blockRow s j k := rfl
@[simp] theorem blockRows_setAllocfail (s : State) (j : BReg) : blockRows (setAllocfail s) j = blockRows s j := rfl
@[simp] theorem descFits_setAllocfail (s : State) (j : BReg) : descFits (setAllocfail s) j = descFits s j := rfl

/-! ### setHalted -/

@[simp] theorem setHalted_params (s : State) : (setHalted s).params = s.params := rfl
@[simp] theorem setHalted_x (s : State) : (setHalted s).x = s.x := rfl
@[simp] theorem setHalted_g (s : State) : (setHalted s).g = s.g := rfl
@[simp] theorem setHalted_m (s : State) : (setHalted s).m = s.m := rfl
@[simp] theorem setHalted_b (s : State) : (setHalted s).b = s.b := rfl
@[simp] theorem setHalted_cpc (s : State) : (setHalted s).cpc = s.cpc := rfl
@[simp] theorem setHalted_status (s : State) : (setHalted s).status = { s.status with busy := false, done := true } := rfl
@[simp] theorem setHalted_irqEn (s : State) : (setHalted s).irqEn = s.irqEn := rfl
@[simp] theorem setHalted_faultCode (s : State) : (setHalted s).faultCode = s.faultCode := rfl
@[simp] theorem setHalted_faultPc (s : State) : (setHalted s).faultPc = s.faultPc := rfl
@[simp] theorem setHalted_faultInsn (s : State) : (setHalted s).faultInsn = s.faultInsn := rfl
@[simp] theorem setHalted_faultInfo (s : State) : (setHalted s).faultInfo = s.faultInfo := rfl
@[simp] theorem setHalted_retired (s : State) : (setHalted s).retired = s.retired := rfl
@[simp] theorem setHalted_mem (s : State) : (setHalted s).mem = s.mem := rfl
@[simp] theorem setHalted_draws (s : State) : (setHalted s).draws = s.draws := rfl
@[simp] theorem setHalted_inputs (s : State) : (setHalted s).inputs = s.inputs := rfl
@[simp] theorem setHalted_readData (s : State) : (setHalted s).readData = s.readData := rfl
@[simp] theorem getX_setHalted (s : State) (j : XReg) : getX (setHalted s) j = getX s j := rfl
@[simp] theorem getG_setHalted (s : State) (j : GReg) : getG (setHalted s) j = getG s j := rfl
@[simp] theorem getM_setHalted (s : State) (j : MReg) : getM (setHalted s) j = getM s j := rfl
@[simp] theorem getB_setHalted (s : State) (j : BReg) : getB (setHalted s) j = getB s j := rfl
@[simp] theorem blockRow_setHalted (s : State) (j : BReg) (k : Nat) : blockRow (setHalted s) j k = blockRow s j k := rfl
@[simp] theorem blockRows_setHalted (s : State) (j : BReg) : blockRows (setHalted s) j = blockRows s j := rfl
@[simp] theorem descFits_setHalted (s : State) (j : BReg) : descFits (setHalted s) j = descFits s j := rfl

/-! ### setFaulted -/

@[simp] theorem setFaulted_params (s : State) : (setFaulted s).params = s.params := rfl
@[simp] theorem setFaulted_x (s : State) : (setFaulted s).x = s.x := rfl
@[simp] theorem setFaulted_g (s : State) : (setFaulted s).g = s.g := rfl
@[simp] theorem setFaulted_m (s : State) : (setFaulted s).m = s.m := rfl
@[simp] theorem setFaulted_b (s : State) : (setFaulted s).b = s.b := rfl
@[simp] theorem setFaulted_cpc (s : State) : (setFaulted s).cpc = s.cpc := rfl
@[simp] theorem setFaulted_status (s : State) : (setFaulted s).status = { s.status with busy := false, fault := true } := rfl
@[simp] theorem setFaulted_irqEn (s : State) : (setFaulted s).irqEn = s.irqEn := rfl
@[simp] theorem setFaulted_faultCode (s : State) : (setFaulted s).faultCode = s.faultCode := rfl
@[simp] theorem setFaulted_faultPc (s : State) : (setFaulted s).faultPc = s.faultPc := rfl
@[simp] theorem setFaulted_faultInsn (s : State) : (setFaulted s).faultInsn = s.faultInsn := rfl
@[simp] theorem setFaulted_faultInfo (s : State) : (setFaulted s).faultInfo = s.faultInfo := rfl
@[simp] theorem setFaulted_retired (s : State) : (setFaulted s).retired = s.retired := rfl
@[simp] theorem setFaulted_mem (s : State) : (setFaulted s).mem = s.mem := rfl
@[simp] theorem setFaulted_draws (s : State) : (setFaulted s).draws = s.draws := rfl
@[simp] theorem setFaulted_inputs (s : State) : (setFaulted s).inputs = s.inputs := rfl
@[simp] theorem setFaulted_readData (s : State) : (setFaulted s).readData = s.readData := rfl
@[simp] theorem getX_setFaulted (s : State) (j : XReg) : getX (setFaulted s) j = getX s j := rfl
@[simp] theorem getG_setFaulted (s : State) (j : GReg) : getG (setFaulted s) j = getG s j := rfl
@[simp] theorem getM_setFaulted (s : State) (j : MReg) : getM (setFaulted s) j = getM s j := rfl
@[simp] theorem getB_setFaulted (s : State) (j : BReg) : getB (setFaulted s) j = getB s j := rfl
@[simp] theorem blockRow_setFaulted (s : State) (j : BReg) (k : Nat) : blockRow (setFaulted s) j k = blockRow s j k := rfl
@[simp] theorem blockRows_setFaulted (s : State) (j : BReg) : blockRows (setFaulted s) j = blockRows s j := rfl
@[simp] theorem descFits_setFaulted (s : State) (j : BReg) : descFits (setFaulted s) j = descFits s j := rfl

/-! ### setRunning -/

@[simp] theorem setRunning_params (s : State) : (setRunning s).params = s.params := rfl
@[simp] theorem setRunning_x (s : State) : (setRunning s).x = s.x := rfl
@[simp] theorem setRunning_g (s : State) : (setRunning s).g = s.g := rfl
@[simp] theorem setRunning_m (s : State) : (setRunning s).m = s.m := rfl
@[simp] theorem setRunning_b (s : State) : (setRunning s).b = s.b := rfl
@[simp] theorem setRunning_cpc (s : State) : (setRunning s).cpc = s.cpc := rfl
@[simp] theorem setRunning_status (s : State) : (setRunning s).status = { s.status with busy := true, done := false } := rfl
@[simp] theorem setRunning_irqEn (s : State) : (setRunning s).irqEn = s.irqEn := rfl
@[simp] theorem setRunning_faultCode (s : State) : (setRunning s).faultCode = s.faultCode := rfl
@[simp] theorem setRunning_faultPc (s : State) : (setRunning s).faultPc = s.faultPc := rfl
@[simp] theorem setRunning_faultInsn (s : State) : (setRunning s).faultInsn = s.faultInsn := rfl
@[simp] theorem setRunning_faultInfo (s : State) : (setRunning s).faultInfo = s.faultInfo := rfl
@[simp] theorem setRunning_retired (s : State) : (setRunning s).retired = s.retired := rfl
@[simp] theorem setRunning_mem (s : State) : (setRunning s).mem = s.mem := rfl
@[simp] theorem setRunning_draws (s : State) : (setRunning s).draws = s.draws := rfl
@[simp] theorem setRunning_inputs (s : State) : (setRunning s).inputs = s.inputs := rfl
@[simp] theorem setRunning_readData (s : State) : (setRunning s).readData = s.readData := rfl
@[simp] theorem getX_setRunning (s : State) (j : XReg) : getX (setRunning s) j = getX s j := rfl
@[simp] theorem getG_setRunning (s : State) (j : GReg) : getG (setRunning s) j = getG s j := rfl
@[simp] theorem getM_setRunning (s : State) (j : MReg) : getM (setRunning s) j = getM s j := rfl
@[simp] theorem getB_setRunning (s : State) (j : BReg) : getB (setRunning s) j = getB s j := rfl
@[simp] theorem blockRow_setRunning (s : State) (j : BReg) (k : Nat) : blockRow (setRunning s) j k = blockRow s j k := rfl
@[simp] theorem blockRows_setRunning (s : State) (j : BReg) : blockRows (setRunning s) j = blockRows s j := rfl
@[simp] theorem descFits_setRunning (s : State) (j : BReg) : descFits (setRunning s) j = descFits s j := rfl

/-! ### raiseFault -/

@[simp] theorem raiseFault_params (s : State) (t : Trap) (insn : Word32) : (raiseFault s t insn).params = s.params := rfl
@[simp] theorem raiseFault_x (s : State) (t : Trap) (insn : Word32) : (raiseFault s t insn).x = s.x := rfl
@[simp] theorem raiseFault_g (s : State) (t : Trap) (insn : Word32) : (raiseFault s t insn).g = s.g := rfl
@[simp] theorem raiseFault_m (s : State) (t : Trap) (insn : Word32) : (raiseFault s t insn).m = s.m := rfl
@[simp] theorem raiseFault_b (s : State) (t : Trap) (insn : Word32) : (raiseFault s t insn).b = s.b := rfl
@[simp] theorem raiseFault_cpc (s : State) (t : Trap) (insn : Word32) : (raiseFault s t insn).cpc = s.cpc := rfl
@[simp] theorem raiseFault_status (s : State) (t : Trap) (insn : Word32) : (raiseFault s t insn).status = { s.status with busy := false, fault := true } := rfl
@[simp] theorem raiseFault_irqEn (s : State) (t : Trap) (insn : Word32) : (raiseFault s t insn).irqEn = s.irqEn := rfl
@[simp] theorem raiseFault_faultCode (s : State) (t : Trap) (insn : Word32) : (raiseFault s t insn).faultCode = faultCodeByte t.code := rfl
@[simp] theorem raiseFault_faultPc (s : State) (t : Trap) (insn : Word32) : (raiseFault s t insn).faultPc = s.cpc := rfl
@[simp] theorem raiseFault_faultInsn (s : State) (t : Trap) (insn : Word32) : (raiseFault s t insn).faultInsn = insn := rfl
@[simp] theorem raiseFault_faultInfo (s : State) (t : Trap) (insn : Word32) : (raiseFault s t insn).faultInfo = t.info := rfl
@[simp] theorem raiseFault_retired (s : State) (t : Trap) (insn : Word32) : (raiseFault s t insn).retired = s.retired := rfl
@[simp] theorem raiseFault_mem (s : State) (t : Trap) (insn : Word32) : (raiseFault s t insn).mem = s.mem := rfl
@[simp] theorem raiseFault_draws (s : State) (t : Trap) (insn : Word32) : (raiseFault s t insn).draws = s.draws := rfl
@[simp] theorem raiseFault_inputs (s : State) (t : Trap) (insn : Word32) : (raiseFault s t insn).inputs = s.inputs := rfl
@[simp] theorem raiseFault_readData (s : State) (t : Trap) (insn : Word32) : (raiseFault s t insn).readData = s.readData := rfl
@[simp] theorem getX_raiseFault (s : State) (t : Trap) (insn : Word32) (j : XReg) : getX (raiseFault s t insn) j = getX s j := rfl
@[simp] theorem getG_raiseFault (s : State) (t : Trap) (insn : Word32) (j : GReg) : getG (raiseFault s t insn) j = getG s j := rfl
@[simp] theorem getM_raiseFault (s : State) (t : Trap) (insn : Word32) (j : MReg) : getM (raiseFault s t insn) j = getM s j := rfl
@[simp] theorem getB_raiseFault (s : State) (t : Trap) (insn : Word32) (j : BReg) : getB (raiseFault s t insn) j = getB s j := rfl
@[simp] theorem blockRow_raiseFault (s : State) (t : Trap) (insn : Word32) (j : BReg) (k : Nat) : blockRow (raiseFault s t insn) j k = blockRow s j k := rfl
@[simp] theorem blockRows_raiseFault (s : State) (t : Trap) (insn : Word32) (j : BReg) : blockRows (raiseFault s t insn) j = blockRows s j := rfl
@[simp] theorem descFits_raiseFault (s : State) (t : Trap) (insn : Word32) (j : BReg) : descFits (raiseFault s t insn) j = descFits s j := rfl

/-! ### A register just written -/

theorem getX_setX (s : State) (i j : XReg) (v : Word) : getX (setX s i v) j = if i = j then v else getX s j := by
  simp [getX, setX, Vector.getElem_set, Fin.ext_iff]

theorem getG_setG (s : State) (i j : GReg) (v : Grp64) : getG (setG s i v) j = if i = j then v else getG s j := by
  simp [getG, setG, Vector.getElem_set, Fin.ext_iff]

theorem getM_setM (s : State) (i j : MReg) (v : Mat64) : getM (setM s i v) j = if i = j then v else getM s j := by
  simp [getM, setM, Vector.getElem_set, Fin.ext_iff]

theorem getB_setB (s : State) (i j : BReg) (v : Desc) : getB (setB s i v) j = if i = j then v else getB s j := by
  simp [getB, setB, Vector.getElem_set, Fin.ext_iff]

@[simp] theorem getX_setX_self (s : State) (i : XReg) (v : Word) : getX (setX s i v) i = v := by
  simp [getX_setX]

@[simp] theorem getG_setG_self (s : State) (i : GReg) (v : Grp64) : getG (setG s i v) i = v := by
  simp [getG_setG]

@[simp] theorem getM_setM_self (s : State) (i : MReg) (v : Mat64) : getM (setM s i v) i = v := by
  simp [getM_setM]

@[simp] theorem getB_setB_self (s : State) (i : BReg) (v : Desc) : getB (setB s i v) i = v := by
  simp [getB_setB]

theorem getX_setX_ne (s : State) {i j : XReg} (h : i ≠ j) (v : Word) : getX (setX s i v) j = getX s j := by
  simp [getX_setX, h]

theorem getG_setG_ne (s : State) {i j : GReg} (h : i ≠ j) (v : Grp64) : getG (setG s i v) j = getG s j := by
  simp [getG_setG, h]

theorem getM_setM_ne (s : State) {i j : MReg} (h : i ≠ j) (v : Mat64) : getM (setM s i v) j = getM s j := by
  simp [getM_setM, h]

theorem getB_setB_ne (s : State) {i j : BReg} (h : i ≠ j) (v : Desc) : getB (setB s i v) j = getB s j := by
  simp [getB_setB, h]

end Sys2Proof.Machine
end

