-- ==== Sys2Proof/Laws/Ops.lean ====
section
/-! SUPPORT. One lemma per shared operation that says once everything it can do: a check, a command, a fetch, a turn. -/

namespace Sys2Proof.Machine

/-! ### Checks -/

@[simp] theorem firstTrap_nil : firstTrap [] = none := rfl

@[simp] theorem firstTrap_cons_none (l : List (Option Trap)) : firstTrap (none :: l) = firstTrap l := rfl

@[simp] theorem firstTrap_cons_some (t : Trap) (l : List (Option Trap)) : firstTrap (some t :: l) = some t := rfl

/-- A command passes its checks exactly when each of them passes. -/
theorem firstTrap_eq_none_iff {l : List (Option Trap)} : firstTrap l = none ↔ ∀ c ∈ l, c = none := by
  induction l with
  | nil => simp
  | cons c rest ih => cases c <;> simp [ih]

/-- The fault a command raises is one of its checks' faults. -/
theorem firstTrap_mem {l : List (Option Trap)} {t : Trap} (h : firstTrap l = some t) : some t ∈ l := by
  induction l with
  | nil => simp at h
  | cons c rest ih =>
    cases c with
    | none => exact List.mem_cons_of_mem _ (ih h)
    | some u =>
      rw [firstTrap_cons_some, Option.some.injEq] at h
      subst h
      exact List.mem_cons_self

theorem checkElem_eq_none_iff {v : Word} : checkElem v = none ↔ v.toNat ≤ 15 := by
  unfold checkElem; split <;> simp_all

theorem checkElem_of_gt {v : Word} (h : 15 < v.toNat) : checkElem v = some ⟨.badElem, v⟩ := by
  unfold checkElem; rw [if_neg (by omega)]

theorem checkIndex_eq_none_iff {v : Word} : checkIndex v = none ↔ v.toNat ≤ 63 := by
  unfold checkIndex; split <;> simp_all

theorem checkIndex_of_gt {v : Word} (h : 63 < v.toNat) : checkIndex v = some ⟨.badIndex, v⟩ := by
  unfold checkIndex; rw [if_neg (by omega)]

theorem checkInvertible_eq_none_iff {v : Word} : checkInvertible v = none ↔ v ≠ 0 := by
  unfold checkInvertible; split <;> simp_all

theorem checkAlias_eq_none_iff {a b : MReg} : checkAlias a b = none ↔ a ≠ b := by
  unfold checkAlias; split <;> simp_all

theorem checkDesc_eq_none_iff {s : State} {i : BReg} : checkDesc s i = none ↔ (getB s i).valid = true := by
  unfold checkDesc; split <;> simp_all

theorem checkDesc_of_invalid {s : State} {i : BReg} (h : (getB s i).valid = false) :
    checkDesc s i = some ⟨.badDesc, BitVec.ofNat 64 i.val⟩ := by
  unfold checkDesc; simp [h]

theorem checkRow_eq_none_iff {s : State} {i : BReg} {v : Word} :
    checkRow s i v = none ↔ v.toNat < (getB s i).rnum.toNat := by
  unfold checkRow; split <;> simp_all

theorem checkDims_eq_none_iff {s : State} {d a : BReg} : checkDims s d a = none ↔ (getB s d).rnum = (getB s a).rnum := by
  unfold checkDims; split <;> simp_all

theorem checkWindow_eq_none_iff {s : State} {start count : Word} :
    checkWindow s start count = none ↔ start.toNat + count.toNat ≤ s.params.idxEntries := by
  unfold checkWindow; split <;> simp_all

/-- A row-subset list passes when its window fits and every entry is a row. -/
theorem checkList_eq_none_iff {s : State} {i : BReg} {start count : Word} :
    checkList s i start count = none ↔ start.toNat + count.toNat ≤ s.params.idxEntries ∧
      ∀ e ∈ idxEntries s start count, e.toNat < (getB s i).rnum.toNat := by
  unfold checkList checkEntries
  cases h : checkWindow s start count with
  | none =>
    rw [checkWindow_eq_none_iff] at h
    simp [h, firstTrap_eq_none_iff, checkRow_eq_none_iff]
  | some t =>
    have : ¬ start.toNat + count.toNat ≤ s.params.idxEntries := fun hc => by
      rw [checkWindow_eq_none_iff.mpr hc] at h; simp at h
    simp [this]

theorem descFits_iff {s : State} {i : BReg} :
    descFits s i = true ↔ (getB s i).base.toNat + (getB s i).rnum.toNat ≤ s.params.rowmemRows := by
  simp [descFits]

/-! ### Commands -/

/-- Everything a command can do: the first fault among its checks, or all its effects and its completion. -/
theorem command_eq_next_iff {i : Instr} {s t : State} {checks : List (Option Trap)} {effect : State → State} :
    command i s checks effect = .next t ↔
      (∃ tr, firstTrap checks = some tr ∧ raiseFault s tr (encode i) = t) ∨
        (firstTrap checks = none ∧ retire (effect s) = t) := by
  unfold command
  cases firstTrap checks <;> simp

/-- A command that goes on raised a fault or completed. -/
theorem command_next_cases {i : Instr} {s t : State} {checks : List (Option Trap)} {effect : State → State}
    (h : command i s checks effect = .next t) :
    (∃ tr, raiseFault s tr (encode i) = t) ∨ retire (effect s) = t := by
  rcases command_eq_next_iff.mp h with ⟨tr, _, h⟩ | ⟨_, h⟩
  · exact .inl ⟨tr, h⟩
  · exact .inr h

theorem command_of_none {i : Instr} {s : State} {checks : List (Option Trap)} {effect : State → State}
    (h : firstTrap checks = none) : command i s checks effect = .next (retire (effect s)) := by
  unfold command; rw [h]

theorem command_of_some {i : Instr} {s : State} {checks : List (Option Trap)} {effect : State → State} {tr : Trap}
    (h : firstTrap checks = some tr) : command i s checks effect = .next (raiseFault s tr (encode i)) := by
  unfold command; rw [h]

/-- A command over registers always answers a next state. -/
theorem command_answers (i : Instr) (s : State) (checks : List (Option Trap)) (effect : State → State) :
    ∃ t, command i s checks effect = .next t := by
  unfold command; cases firstTrap checks <;> exact ⟨_, rfl⟩

/-- Everything a block command can do when it answers a next state. -/
theorem blockCommand_eq_next_iff {i : Instr} {s t : State} {descs : List BReg} {checks : List (Option Trap)}
    {effect : State → State} :
    blockCommand i s descs checks effect = .next t ↔
      (∃ tr, firstTrap checks = some tr ∧ raiseFault s tr (encode i) = t) ∨
        (firstTrap checks = none ∧ descs.all (descFits s) = true ∧ retire (effect s) = t) := by
  unfold blockCommand
  cases firstTrap checks with
  | some tr => simp
  | none => cases descs.all (descFits s) <;> simp

/-- A block command that goes on raised a fault or completed. -/
theorem blockCommand_next_cases {i : Instr} {s t : State} {descs : List BReg} {checks : List (Option Trap)}
    {effect : State → State} (h : blockCommand i s descs checks effect = .next t) :
    (∃ tr, raiseFault s tr (encode i) = t) ∨ retire (effect s) = t := by
  rcases blockCommand_eq_next_iff.mp h with ⟨tr, _, h⟩ | ⟨_, _, h⟩
  · exact .inl ⟨tr, h⟩
  · exact .inr h

theorem blockCommand_of_none {i : Instr} {s : State} {descs : List BReg} {checks : List (Option Trap)}
    {effect : State → State} (h : firstTrap checks = none) (hf : ∀ d ∈ descs, descFits s d = true) :
    blockCommand i s descs checks effect = .next (retire (effect s)) := by
  unfold blockCommand
  rw [h]
  simp only [List.all_eq_true.mpr hf, if_true]

theorem blockCommand_of_some {i : Instr} {s : State} {descs : List BReg} {checks : List (Option Trap)}
    {effect : State → State} {tr : Trap} (h : firstTrap checks = some tr) :
    blockCommand i s descs checks effect = .next (raiseFault s tr (encode i)) := by
  unfold blockCommand; rw [h]

/-- A block command stops only where a descriptor names rows that do not exist. -/
theorem blockCommand_answers (i : Instr) (s : State) (descs : List BReg) (checks : List (Option Trap))
    (effect : State → State) (hf : firstTrap checks = none → ∀ d ∈ descs, descFits s d = true) :
    ∃ t, blockCommand i s descs checks effect = .next t := by
  cases h : firstTrap checks with
  | some tr => exact ⟨_, blockCommand_of_some h⟩
  | none => exact ⟨_, blockCommand_of_none h (hf h)⟩

/-! ### Fetch and turns -/

/-- A fetch gives an instruction exactly when CPC is a command word's index and that word decodes. -/
theorem fetch_eq_ok_iff {s : State} {i : Instr} :
    fetch s = .ok i ↔ s.cpc.toNat < s.params.cmdWords ∧ decode (cmdRead s s.cpc.toNat) = .ok i := by
  unfold fetch
  split_ifs with h
  · simp; omega
  · cases decode (cmdRead s s.cpc.toNat) <;> simp; omega

theorem fetch_of_overrun {s : State} (h : s.params.cmdWords ≤ s.cpc.toNat) :
    fetch s = .error (⟨.cmdOverrun, s.cpc.setWidth 64⟩, 0) := by
  unfold fetch; rw [if_pos h]

theorem fetch_of_decode_error {s : State} {e : DecodeError} (h : s.cpc.toNat < s.params.cmdWords)
    (hd : decode (cmdRead s s.cpc.toNat) = .error e) : fetch s = .error (decodeTrap e, cmdRead s s.cpc.toNat) := by
  unfold fetch; rw [if_neg (by omega), hd]

theorem sequencerStep_idle {s : State} (h : s.status.busy = false) : sequencerStep s = .next s := by
  unfold sequencerStep; simp [h]

theorem sequencerStep_of_ok {s : State} {i : Instr} (h : s.status.busy = true) (hf : fetch s = .ok i) :
    sequencerStep s = exec i s := by
  unfold sequencerStep; simp [h, hf]

theorem sequencerStep_of_error {s : State} {t : Trap} {insn : Word32} (h : s.status.busy = true)
    (hf : fetch s = .error (t, insn)) : sequencerStep s = .next (raiseFault s t insn) := by
  unfold sequencerStep; simp [h, hf]

theorem step_of_nil {s : State} (h : s.inputs = []) : step s = sequencerStep s := by
  unfold step; rw [h]

theorem step_of_sequencer {s : State} {rest : List Input} (h : s.inputs = .sequencer :: rest) :
    step s = sequencerStep { s with inputs := rest } := by
  unfold step; rw [h]

theorem step_of_host {s : State} {access : HostAccess} {rest : List Input} (h : s.inputs = .host access :: rest) :
    step s = .next (hostAccess { s with inputs := rest } access) := by
  unfold step; rw [h]

theorem step_of_reset {s : State} {draw : ResetDraw} {rest : List Input} (h : s.inputs = .reset draw :: rest) :
    step s = .next (applyReset { s with inputs := rest } draw) := by
  unfold step; rw [h]

end Sys2Proof.Machine
end

