-- ==== Sys2Proof/Laws/PerInstr.lean ====
section
/-! SUPPORT. The per-instruction family EncodingLegal: the word of an instruction has an assigned opcode and is admitted
by that opcode's row (30_encoding.md R105, R107, R108). -/

namespace Sys2Proof.Laws.EncodingLegal

/-- The word of the instruction has a row, and the row admits it. -/
def Statement (i : Instr) : Prop := ∃ r, rowOf (opcodeOf (encode i)) = some r ∧ r.admits (encode i) = true

theorem nop : Statement .nop :=
  ⟨_, (congrArg rowOf (opcodeOf_encN 0x00)).trans rfl, admits_encN _ _⟩

theorem halt : Statement .halt :=
  ⟨_, (congrArg rowOf (opcodeOf_encN 0x01)).trans rfl, admits_encN _ _⟩

theorem xli (d : XReg) (imm16 : BitVec 16) (h : BitVec 2) : Statement (.xli d imm16 h) :=
  ⟨_, (congrArg rowOf (opcodeOf_encI 0x02 d imm16 h)).trans rfl, admits_encI _ _ _ _ _⟩

theorem xins (d : XReg) (imm16 : BitVec 16) (h : BitVec 2) : Statement (.xins d imm16 h) :=
  ⟨_, (congrArg rowOf (opcodeOf_encI 0x03 d imm16 h)).trans rfl, admits_encI _ _ _ _ _⟩

theorem xmov (d : XReg) (a : XReg) : Statement (.xmov d a) :=
  ⟨_, (congrArg rowOf (opcodeOf_encR 0x04 d a 0 0)).trans rfl,
    admits_encR _ _ _ _ _ _ _ _ _ _ (regField_xReg _) (regField_xReg _) regField_unused regField_unused⟩

theorem fadd (d : XReg) (a : XReg) (b : XReg) : Statement (.fadd d a b) :=
  ⟨_, (congrArg rowOf (opcodeOf_encR 0x10 d a b 0)).trans rfl,
    admits_encR _ _ _ _ _ _ _ _ _ _ (regField_xReg _) (regField_xReg _) (regField_xReg _) regField_unused⟩

theorem fmul (d : XReg) (a : XReg) (b : XReg) : Statement (.fmul d a b) :=
  ⟨_, (congrArg rowOf (opcodeOf_encR 0x11 d a b 0)).trans rfl,
    admits_encR _ _ _ _ _ _ _ _ _ _ (regField_xReg _) (regField_xReg _) (regField_xReg _) regField_unused⟩

theorem finv (d : XReg) (a : XReg) : Statement (.finv d a) :=
  ⟨_, (congrArg rowOf (opcodeOf_encR 0x12 d a 0 0)).trans rfl,
    admits_encR _ _ _ _ _ _ _ _ _ _ (regField_xReg _) (regField_xReg _) regField_unused regField_unused⟩

theorem gzero (d : GReg) : Statement (.gzero d) :=
  ⟨_, (congrArg rowOf (opcodeOf_encR 0x20 d 0 0 0)).trans rfl,
    admits_encR _ _ _ _ _ _ _ _ _ _ (regField_gReg _) regField_unused regField_unused regField_unused⟩

theorem gcopy (d : GReg) (a : GReg) : Statement (.gcopy d a) :=
  ⟨_, (congrArg rowOf (opcodeOf_encR 0x21 d a 0 0)).trans rfl,
    admits_encR _ _ _ _ _ _ _ _ _ _ (regField_gReg _) (regField_gReg _) regField_unused regField_unused⟩

theorem grand (d : GReg) : Statement (.grand d) :=
  ⟨_, (congrArg rowOf (opcodeOf_encR 0x22 d 0 0 0)).trans rfl,
    admits_encR _ _ _ _ _ _ _ _ _ _ (regField_gReg _) regField_unused regField_unused regField_unused⟩

theorem geq (d : XReg) (a : GReg) (b : GReg) : Statement (.geq d a b) :=
  ⟨_, (congrArg rowOf (opcodeOf_encR 0x23 d a b 0)).trans rfl,
    admits_encR _ _ _ _ _ _ _ _ _ _ (regField_xReg _) (regField_gReg _) (regField_gReg _) regField_unused⟩

theorem gzpos (d : XReg) (a : GReg) : Statement (.gzpos d a) :=
  ⟨_, (congrArg rowOf (opcodeOf_encR 0x24 d a 0 0)).trans rfl,
    admits_encR _ _ _ _ _ _ _ _ _ _ (regField_xReg _) (regField_gReg _) regField_unused regField_unused⟩

theorem gnzpos (d : XReg) (a : GReg) : Statement (.gnzpos d a) :=
  ⟨_, (congrArg rowOf (opcodeOf_encR 0x25 d a 0 0)).trans rfl,
    admits_encR _ _ _ _ _ _ _ _ _ _ (regField_xReg _) (regField_gReg _) regField_unused regField_unused⟩

theorem gget (d : XReg) (a : GReg) (b : XReg) : Statement (.gget d a b) :=
  ⟨_, (congrArg rowOf (opcodeOf_encR 0x26 d a b 0)).trans rfl,
    admits_encR _ _ _ _ _ _ _ _ _ _ (regField_xReg _) (regField_gReg _) (regField_xReg _) regField_unused⟩

theorem gset (d : GReg) (a : XReg) (b : XReg) : Statement (.gset d a b) :=
  ⟨_, (congrArg rowOf (opcodeOf_encR 0x27 d a b 0)).trans rfl,
    admits_encR _ _ _ _ _ _ _ _ _ _ (regField_gReg _) (regField_xReg _) (regField_xReg _) regField_unused⟩

theorem gaddat (d : GReg) (a : XReg) (b : XReg) : Statement (.gaddat d a b) :=
  ⟨_, (congrArg rowOf (opcodeOf_encR 0x28 d a b 0)).trans rfl,
    admits_encR _ _ _ _ _ _ _ _ _ _ (regField_gReg _) (regField_xReg _) (regField_xReg _) regField_unused⟩

theorem gzsub (d : GReg) (a : XReg) : Statement (.gzsub d a) :=
  ⟨_, (congrArg rowOf (opcodeOf_encR 0x29 d a 0 0)).trans rfl,
    admits_encR _ _ _ _ _ _ _ _ _ _ (regField_gReg _) (regField_xReg _) regField_unused regField_unused⟩

theorem gzat (d : GReg) (a : XReg) : Statement (.gzat d a) :=
  ⟨_, (congrArg rowOf (opcodeOf_encR 0x2A d a 0 0)).trans rfl,
    admits_encR _ _ _ _ _ _ _ _ _ _ (regField_gReg _) (regField_xReg _) regField_unused regField_unused⟩

theorem gmix (d : GReg) (a : GReg) (b : XReg) : Statement (.gmix d a b) :=
  ⟨_, (congrArg rowOf (opcodeOf_encR 0x2B d a b 0)).trans rfl,
    admits_encR _ _ _ _ _ _ _ _ _ _ (regField_gReg _) (regField_gReg _) (regField_xReg _) regField_unused⟩

theorem gfnz (d : XReg) (a : GReg) : Statement (.gfnz d a) :=
  ⟨_, (congrArg rowOf (opcodeOf_encR 0x2C d a 0 0)).trans rfl,
    admits_encR _ _ _ _ _ _ _ _ _ _ (regField_xReg _) (regField_gReg _) regField_unused regField_unused⟩

theorem gadd (d : GReg) (a : GReg) : Statement (.gadd d a) :=
  ⟨_, (congrArg rowOf (opcodeOf_encR 0x2D d a 0 0)).trans rfl,
    admits_encR _ _ _ _ _ _ _ _ _ _ (regField_gReg _) (regField_gReg _) regField_unused regField_unused⟩

theorem gscale (d : GReg) (a : GReg) (b : XReg) : Statement (.gscale d a b) :=
  ⟨_, (congrArg rowOf (opcodeOf_encR 0x2E d a b 0)).trans rfl,
    admits_encR _ _ _ _ _ _ _ _ _ _ (regField_gReg _) (regField_gReg _) (regField_xReg _) regField_unused⟩

theorem gscalei (d : GReg) (a : GReg) (b : GReg) (c : XReg) : Statement (.gscalei d a b c) :=
  ⟨_, (congrArg rowOf (opcodeOf_encR 0x2F d a b c)).trans rfl,
    admits_encR _ _ _ _ _ _ _ _ _ _ (regField_gReg _) (regField_gReg _) (regField_gReg _) (regField_xReg _)⟩

theorem gfma (d : GReg) (a : GReg) (b : XReg) : Statement (.gfma d a b) :=
  ⟨_, (congrArg rowOf (opcodeOf_encR 0x30 d a b 0)).trans rfl,
    admits_encR _ _ _ _ _ _ _ _ _ _ (regField_gReg _) (regField_gReg _) (regField_xReg _) regField_unused⟩

theorem gfmam (d : GReg) (a : GReg) (b : XReg) (c : XReg) : Statement (.gfmam d a b c) :=
  ⟨_, (congrArg rowOf (opcodeOf_encR 0x31 d a b c)).trans rfl,
    admits_encR _ _ _ _ _ _ _ _ _ _ (regField_gReg _) (regField_gReg _) (regField_xReg _) (regField_xReg _)⟩

theorem gfmai (d : GReg) (a : GReg) (b : GReg) (c : XReg) : Statement (.gfmai d a b c) :=
  ⟨_, (congrArg rowOf (opcodeOf_encR 0x32 d a b c)).trans rfl,
    admits_encR _ _ _ _ _ _ _ _ _ _ (regField_gReg _) (regField_gReg _) (regField_gReg _) (regField_xReg _)⟩

theorem mzero (d : MReg) : Statement (.mzero d) :=
  ⟨_, (congrArg rowOf (opcodeOf_encR 0x40 d 0 0 0)).trans rfl,
    admits_encR _ _ _ _ _ _ _ _ _ _ (regField_mReg _) regField_unused regField_unused regField_unused⟩

theorem mident (d : MReg) : Statement (.mident d) :=
  ⟨_, (congrArg rowOf (opcodeOf_encR 0x41 d 0 0 0)).trans rfl,
    admits_encR _ _ _ _ _ _ _ _ _ _ (regField_mReg _) regField_unused regField_unused regField_unused⟩

theorem mrand (d : MReg) : Statement (.mrand d) :=
  ⟨_, (congrArg rowOf (opcodeOf_encR 0x42 d 0 0 0)).trans rfl,
    admits_encR _ _ _ _ _ _ _ _ _ _ (regField_mReg _) regField_unused regField_unused regField_unused⟩

theorem mcopy (d : MReg) (a : MReg) : Statement (.mcopy d a) :=
  ⟨_, (congrArg rowOf (opcodeOf_encR 0x43 d a 0 0)).trans rfl,
    admits_encR _ _ _ _ _ _ _ _ _ _ (regField_mReg _) (regField_mReg _) regField_unused regField_unused⟩

theorem mswap (d : MReg) (a : XReg) (b : XReg) : Statement (.mswap d a b) :=
  ⟨_, (congrArg rowOf (opcodeOf_encR 0x44 d a b 0)).trans rfl,
    admits_encR _ _ _ _ _ _ _ _ _ _ (regField_mReg _) (regField_xReg _) (regField_xReg _) regField_unused⟩

theorem mmul (d : MReg) (a : MReg) (b : MReg) : Statement (.mmul d a b) :=
  ⟨_, (congrArg rowOf (opcodeOf_encR 0x45 d a b 0)).trans rfl,
    admits_encR _ _ _ _ _ _ _ _ _ _ (regField_mReg _) (regField_mReg _) (regField_mReg _) regField_unused⟩

theorem mgj (d : XReg) (a : MReg) (b : MReg) : Statement (.mgj d a b) :=
  ⟨_, (congrArg rowOf (opcodeOf_encR 0x46 d a b 0)).trans rfl,
    admits_encR _ _ _ _ _ _ _ _ _ _ (regField_xReg _) (regField_mReg _) (regField_mReg _) regField_unused⟩

theorem msym (d : XReg) (a : MReg) : Statement (.msym d a) :=
  ⟨_, (congrArg rowOf (opcodeOf_encR 0x47 d a 0 0)).trans rfl,
    admits_encR _ _ _ _ _ _ _ _ _ _ (regField_xReg _) (regField_mReg _) regField_unused regField_unused⟩

theorem mgetr (d : GReg) (a : MReg) (b : XReg) : Statement (.mgetr d a b) :=
  ⟨_, (congrArg rowOf (opcodeOf_encR 0x48 d a b 0)).trans rfl,
    admits_encR _ _ _ _ _ _ _ _ _ _ (regField_gReg _) (regField_mReg _) (regField_xReg _) regField_unused⟩

theorem mputr (d : MReg) (a : XReg) (b : GReg) : Statement (.mputr d a b) :=
  ⟨_, (congrArg rowOf (opcodeOf_encR 0x49 d a b 0)).trans rfl,
    admits_encR _ _ _ _ _ _ _ _ _ _ (regField_mReg _) (regField_xReg _) (regField_gReg _) regField_unused⟩

theorem bcfg (d : BReg) (a : XReg) (b : XReg) : Statement (.bcfg d a b) :=
  ⟨_, (congrArg rowOf (opcodeOf_encR 0x50 d a b 0)).trans rfl,
    admits_encR _ _ _ _ _ _ _ _ _ _ (regField_bReg _) (regField_xReg _) (regField_xReg _) regField_unused⟩

theorem bfree (d : BReg) : Statement (.bfree d) :=
  ⟨_, (congrArg rowOf (opcodeOf_encR 0x51 d 0 0 0)).trans rfl,
    admits_encR _ _ _ _ _ _ _ _ _ _ (regField_bReg _) regField_unused regField_unused regField_unused⟩

theorem bgetr (d : GReg) (a : BReg) (b : XReg) : Statement (.bgetr d a b) :=
  ⟨_, (congrArg rowOf (opcodeOf_encR 0x52 d a b 0)).trans rfl,
    admits_encR _ _ _ _ _ _ _ _ _ _ (regField_gReg _) (regField_bReg _) (regField_xReg _) regField_unused⟩

theorem bputr (d : BReg) (a : XReg) (b : GReg) : Statement (.bputr d a b) :=
  ⟨_, (congrArg rowOf (opcodeOf_encR 0x53 d a b 0)).trans rfl,
    admits_encR _ _ _ _ _ _ _ _ _ _ (regField_bReg _) (regField_xReg _) (regField_gReg _) regField_unused⟩

theorem bat (d : XReg) (a : BReg) (b : XReg) (c : XReg) : Statement (.bat d a b c) :=
  ⟨_, (congrArg rowOf (opcodeOf_encR 0x54 d a b c)).trans rfl,
    admits_encR _ _ _ _ _ _ _ _ _ _ (regField_xReg _) (regField_bReg _) (regField_xReg _) (regField_xReg _)⟩

theorem bsetat (d : BReg) (a : XReg) (b : XReg) (c : XReg) : Statement (.bsetat d a b c) :=
  ⟨_, (congrArg rowOf (opcodeOf_encR 0x55 d a b c)).trans rfl,
    admits_encR _ _ _ _ _ _ _ _ _ _ (regField_bReg _) (regField_xReg _) (regField_xReg _) (regField_xReg _)⟩

theorem bzero (d : BReg) : Statement (.bzero d) :=
  ⟨_, (congrArg rowOf (opcodeOf_encR 0x56 d 0 0 0)).trans rfl,
    admits_encR _ _ _ _ _ _ _ _ _ _ (regField_bReg _) regField_unused regField_unused regField_unused⟩

theorem brand (d : BReg) : Statement (.brand d) :=
  ⟨_, (congrArg rowOf (opcodeOf_encR 0x57 d 0 0 0)).trans rfl,
    admits_encR _ _ _ _ _ _ _ _ _ _ (regField_bReg _) regField_unused regField_unused regField_unused⟩

theorem bcopy (d : BReg) (a : BReg) : Statement (.bcopy d a) :=
  ⟨_, (congrArg rowOf (opcodeOf_encR 0x58 d a 0 0)).trans rfl,
    admits_encR _ _ _ _ _ _ _ _ _ _ (regField_bReg _) (regField_bReg _) regField_unused regField_unused⟩

theorem bgram (d : MReg) (a : BReg) : Statement (.bgram d a) :=
  ⟨_, (congrArg rowOf (opcodeOf_encR 0x59 d a 0 0)).trans rfl,
    admits_encR _ _ _ _ _ _ _ _ _ _ (regField_mReg _) (regField_bReg _) regField_unused regField_unused⟩

theorem bzcm (d : XReg) (a : BReg) : Statement (.bzcm d a) :=
  ⟨_, (congrArg rowOf (opcodeOf_encR 0x5A d a 0 0)).trans rfl,
    admits_encR _ _ _ _ _ _ _ _ _ _ (regField_xReg _) (regField_bReg _) regField_unused regField_unused⟩

theorem bnzcm (d : XReg) (a : BReg) : Statement (.bnzcm d a) :=
  ⟨_, (congrArg rowOf (opcodeOf_encR 0x5B d a 0 0)).trans rfl,
    admits_encR _ _ _ _ _ _ _ _ _ _ (regField_xReg _) (regField_bReg _) regField_unused regField_unused⟩

theorem bzcms (d : XReg) (a : BReg) (b : XReg) (c : XReg) : Statement (.bzcms d a b c) :=
  ⟨_, (congrArg rowOf (opcodeOf_encR 0x5C d a b c)).trans rfl,
    admits_encR _ _ _ _ _ _ _ _ _ _ (regField_xReg _) (regField_bReg _) (regField_xReg _) (regField_xReg _)⟩

theorem bfma (d : BReg) (a : BReg) (b : MReg) : Statement (.bfma d a b) :=
  ⟨_, (congrArg rowOf (opcodeOf_encR 0x5D d a b 0)).trans rfl,
    admits_encR _ _ _ _ _ _ _ _ _ _ (regField_bReg _) (regField_bReg _) (regField_mReg _) regField_unused⟩

theorem bfmad (d : BReg) (a : BReg) (b : MReg) (c : XReg) : Statement (.bfmad d a b c) :=
  ⟨_, (congrArg rowOf (opcodeOf_encR 0x5E d a b c)).trans rfl,
    admits_encR _ _ _ _ _ _ _ _ _ _ (regField_bReg _) (regField_bReg _) (regField_mReg _) (regField_xReg _)⟩

theorem bdfma (d : BReg) (a : BReg) (b : MReg) (c : XReg) : Statement (.bdfma d a b c) :=
  ⟨_, (congrArg rowOf (opcodeOf_encR 0x5F d a b c)).trans rfl,
    admits_encR _ _ _ _ _ _ _ _ _ _ (regField_bReg _) (regField_bReg _) (regField_mReg _) (regField_xReg _)⟩

theorem bmix (d : BReg) (a : BReg) (b : XReg) : Statement (.bmix d a b) :=
  ⟨_, (congrArg rowOf (opcodeOf_encR 0x60 d a b 0)).trans rfl,
    admits_encR _ _ _ _ _ _ _ _ _ _ (regField_bReg _) (regField_bReg _) (regField_xReg _) regField_unused⟩

theorem badd (d : BReg) (a : BReg) : Statement (.badd d a) :=
  ⟨_, (congrArg rowOf (opcodeOf_encR 0x61 d a 0 0)).trans rfl,
    admits_encR _ _ _ _ _ _ _ _ _ _ (regField_bReg _) (regField_bReg _) regField_unused regField_unused⟩

end Sys2Proof.Laws.EncodingLegal
end

