-- ==== Sys2Proof/Tests/Slice0.lean ====
section
/-! SUPPORT. Tests on small states, one step each: the expected values are those of spec/95_test_vectors.md and of the
examples of the rules, worked out there from the rules. After them, the witnesses of the statements' hypotheses. -/

namespace Sys2Proof.Tests

open Sys2Proof.Machine Sys2Proof.Claims

set_option Elab.async false

/-! ### Helpers -/

/-- The state a result goes on with; a stop gives a state no test expects. -/
def goesTo : Result → State
  | .next t => t
  | _ => { State.reset with cpc := 0xFFFFFFFF }

/-- Whether a result goes on. -/
def isNext : Result → Bool
  | .next _ => true
  | _ => false

/-- A result that goes on answers a next state. -/
theorem next_of_isNext {r : Result} (h : isNext r = true) : ∃ t, r = .next t := by
  cases r with
  | next t => exact ⟨t, rfl⟩
  | fault _ => cases h
  | refused _ => cases h

/-- The state after one step that fetches the word w. -/
def run (s : State) (w : Nat) : State := goesTo (step (s.withFetchWord 32 w))

/-- Write some X registers. -/
def withX (s : State) (l : List (XReg × Word)) : State := l.foldl (fun t p => setX t p.1 p.2) s

/-- FAULT_CODE, FAULT_PC, FAULT_INSN and FAULT_INFO, with CPC, RETIRED, FAULT and BUSY. -/
def faultView (s : State) : List Nat :=
  [s.faultCode.toNat, s.faultPc.toNat, s.faultInsn.toNat, s.faultInfo.toNat, s.cpc.toNat, s.retired.toNat,
    s.status.fault.toNat, s.status.busy.toNat]

/-- The fault view after a fault at CPC 0 of a unit that has retired nothing (60_exceptions.md R342). -/
def stoppedWith (code insn info : Nat) : List Nat := [code, 0, insn, info, 0, 0, 1, 0]

/-- The group RAMP of 95_test_vectors.md section 0. -/
def ramp : Grp64 := ⟨0xAAAAAAAAAAAAAAAA, 0xCCCCCCCCCCCCCCCC, 0xF0F0F0F0F0F0F0F0, 0xFF00FF00FF00FF00⟩

/-- scale(RAMP, 2) (95_test_vectors.md section 2.4). -/
def ramp2 : Grp64 := ⟨0xFF00FF00FF00FF00, 0x55AA55AA55AA55AA, 0xCCCCCCCCCCCCCCCC, 0xF0F0F0F0F0F0F0F0⟩

/-- scale(RAMP, 3) (95_test_vectors.md section 2.4). -/
def ramp3 : Grp64 := ⟨0x55AA55AA55AA55AA, 0x9966996699669966, 0x3C3C3C3C3C3C3C3C, 0x0FF00FF00FF00FF0⟩

/-- IDENT with another top-left block of three rows. -/
def topLeft (r0 r1 r2 : Grp64) : Mat64 := ((identMatrix.set 0 r0).set 1 r1).set 2 r2

/-- The matrix P of 43_matrix.md. -/
def matP : Mat64 := topLeft ⟨2, 3, 0, 0⟩ ⟨3, 0, 1, 0⟩ ⟨4, 4, 6, 0⟩

/-- The inverse of P (43_matrix.md). -/
def matPinv : Mat64 := topLeft ⟨0, 0, 3, 2⟩ ⟨1, 1, 1, 2⟩ ⟨2, 6, 7, 0⟩

/-- The rows of Q (44_block.md). -/
def rowsQ : List Grp64 := [⟨0x3, 0x4, 0, 0⟩, ⟨0x22, 0x2, 0, 0⟩, ⟨0, 0, 0x200, 0⟩]

/-- The first two index entries are 0 and 2; B0 is rows 0 to 2, holding Q, and B1 is rows 3 to 5 (44_block.md). -/
def blocks : State :=
  { State.reset with
    b := #v[⟨true, 0, 3⟩, ⟨true, 3, 3⟩, emptyDesc, emptyDesc]
    mem := rowsStore (memStore32 [] (idxOffset 1) 2) 0 rowsQ }

/-- As `blocks`, B1 holding these rows. -/
def blocksWith (l : List Grp64) : State := setBlockRows blocks 1 l

/-- The rows of a block matrix after a step. -/
def rowsAfter (s : State) (i : BReg) : List Grp64 := blockRows s i

/-- G0 = RAMP. -/
def onRamp : State := setG State.reset 0 ramp

/-! ### Well-formedness: each check refuses an ill-formed word (95_test_vectors.md 2.1) -/

theorem test_wellFormed_accepts : wellFormedWord 0x02100007 = true ∧ wellFormedWord 0x5E101500 = true := by decide
theorem test_wellFormed_unassigned_opcode : wellFormedWord 0x13000000 = false := by decide
theorem test_wellFormed_formatN_bits : wellFormedWord 0x01800000 = false := by decide
theorem test_wellFormed_formatI_bits : wellFormedWord 0x02140000 = false := by decide
theorem test_wellFormed_formatR_low_bits : wellFormedWord 0x10000001 = false := by decide
theorem test_wellFormed_unused_d_a :
    wellFormedWord 0x20010000 = false ∧ wellFormedWord 0x51010000 = false := by decide
theorem test_wellFormed_unused_b_c :
    wellFormedWord 0x04001000 = false ∧ wellFormedWord 0x10000100 = false := by decide
theorem test_wellFormed_m_top_bit : wellFormedWord 0x40800000 = false ∧ wellFormedWord 0x5D008000 = false := by decide
theorem test_wellFormed_b_top_bits :
    wellFormedWord 0x56400000 = false ∧ wellFormedWord 0x58080000 = false := by decide

/-! ### Decoding -/

/-- The match and mask of every row are those of the opcode map (30_encoding.md R108). -/
theorem test_opcode_columns : opcodeTable.map (fun r => (r.pattern, r.mask)) = opcodeColumns := by decide

/-- No two rows have one opcode (30_encoding.md R108). -/
theorem test_opcodes_distinct : (opcodeTable.map Row.opcode).Nodup := by decide

/-- Words of the sequencer family, from 95_test_vectors.md 2.2. -/
theorem test_decode_sequencer :
    [0x00000000, 0x01000000, 0x0223FFFF, 0x0312ABCD, 0x04930000].map decode =
      [.ok .nop, .ok .halt, .ok (.xli 2 0xFFFF 3), .ok (.xins 1 0xABCD 2), .ok (.xmov 9 3)] := by decide

/-- Words of the field family, from 95_test_vectors.md 2.3. -/
theorem test_decode_field :
    [0x10612000, 0x11312000, 0x12430000].map decode =
      [.ok (.fadd 6 1 2), .ok (.fmul 3 1 2), .ok (.finv 4 3)] := by decide

/-- Words of the group family, from 42_group.md and 95_test_vectors.md 2.4 and P2. -/
theorem test_decode_group :
    [0x20300000, 0x21200000, 0x22500000, 0x23101000, 0x24400000, 0x25400000, 0x26706000, 0x27312000,
     0x28012000, 0x29020000, 0x2A010000, 0x2B012000, 0x2C500000, 0x2D010000, 0x2E101000, 0x2F400600,
     0x30203000, 0x31203200, 0x32200100].map decode =
      [.ok (.gzero 3), .ok (.gcopy 2 0), .ok (.grand 5), .ok (.geq 1 0 1), .ok (.gzpos 4 0), .ok (.gnzpos 4 0),
       .ok (.gget 7 0 6), .ok (.gset 3 1 2), .ok (.gaddat 0 1 2), .ok (.gzsub 0 2), .ok (.gzat 0 1),
       .ok (.gmix 0 1 2), .ok (.gfnz 5 0), .ok (.gadd 0 1), .ok (.gscale 1 0 1), .ok (.gscalei 4 0 0 6),
       .ok (.gfma 2 0 3), .ok (.gfmam 2 0 3 2), .ok (.gfmai 2 0 0 1)] := by decide

/-- Words of the fixed-matrix family, from 43_matrix.md and 95_test_vectors.md P3. -/
theorem test_decode_matrix :
    [0x40000000, 0x41100000, 0x42400000, 0x43200000, 0x44012000, 0x45310000, 0x46121000, 0x47300000,
     0x48115000, 0x49112000].map decode =
      [.ok (.mzero 0), .ok (.mident 1), .ok (.mrand 4), .ok (.mcopy 2 0), .ok (.mswap 0 1 2), .ok (.mmul 3 1 0),
       .ok (.mgj 1 2 1), .ok (.msym 3 0), .ok (.mgetr 1 1 5), .ok (.mputr 1 1 2)] := by decide

/-- Words of the block family, from 44_block.md and 95_test_vectors.md 2.6 and P4. -/
theorem test_decode_block :
    [0x50122000, 0x51000000, 0x52001000, 0x53013000, 0x5490AB00, 0x55112300, 0x56100000, 0x57000000,
     0x58130000, 0x59030000, 0x5A400000, 0x5B610000, 0x5C801700, 0x5D101000, 0x5E101500, 0x5F101500,
     0x60105000, 0x61100000].map decode =
      [.ok (.bcfg 1 2 2), .ok (.bfree 0), .ok (.bgetr 0 0 1), .ok (.bputr 0 1 3), .ok (.bat 9 0 10 11),
       .ok (.bsetat 1 1 2 3), .ok (.bzero 1), .ok (.brand 0), .ok (.bcopy 1 3), .ok (.bgram 0 3),
       .ok (.bzcm 4 0), .ok (.bnzcm 6 1), .ok (.bzcms 8 0 1 7), .ok (.bfma 1 0 1), .ok (.bfmad 1 0 1 5),
       .ok (.bdfma 1 0 1 5), .ok (.bmix 1 0 5), .ok (.badd 1 0)] := by decide

/-- The refused words of 95_test_vectors.md 2.1, with the value FAULT_INFO reports. -/
theorem test_decode_refusals :
    [0x01800000, 0x02140000, 0x10000001, 0x40800000, 0x56400000, 0x56C00000].map decode =
      [.error (.reservedField 0x00800000), .error (.reservedField 0x00040000), .error (.reservedField 0x00000001),
       .error (.reservedField 0x00800000), .error (.reservedField 0x00400000), .error (.reservedField 0x00C00000)] ∧
    [0x13000000, 0x13FFFFFF, 0xFF000000, 0x4A000000, 0x62000000].map decode =
      [.error (.illegalOpcode 0x13), .error (.illegalOpcode 0x13), .error (.illegalOpcode 0xFF),
       .error (.illegalOpcode 0x4A), .error (.illegalOpcode 0x62)] := by decide

/-- The host's two questions on one word (30_encoding.md R113). -/
theorem test_decodeTableWord : decodeTableWord 32 0x11312000 = some (.fmul 3 1 2) ∧
    decodeTableWord 32 0x40800000 = none := by decide

/-! ### Sequencer and X registers (95_test_vectors.md 2.2) -/

theorem test_nop :
    (run { State.reset with cpc := 5 } 0x00000000).cpc = 6 ∧ (run State.reset 0).retired = 1 := by decide +kernel

theorem test_halt :
    (fun t : State => (t.cpc, t.status.busy, t.status.done)) (run { State.reset with cpc := 7 } 0x01000000) =
      (8, false, true) := by decide +kernel

theorem test_xli :
    getX (run State.reset 0x0223FFFF) 2 = 0xFFFF000000000000 ∧
    getX (run (withX State.reset [(2, ones)]) 0x02200000) 2 = 0 := by decide +kernel

theorem test_xins :
    getX (run (withX State.reset [(1, 7)]) 0x0312ABCD) 1 = 0x0000ABCD00000007 ∧
    getX (run (withX State.reset [(1, ones)]) 0x03100000) 1 = 0xFFFFFFFFFFFF0000 := by decide +kernel

theorem test_xmov : getX (run (withX State.reset [(3, 4)]) 0x04930000) 9 = 4 := by decide +kernel

/-! ### Field (95_test_vectors.md 2.3) -/

theorem test_gfMul :
    [(2, 8), (7, 11), (15, 15), (9, 2), (3, 7), (8, 8), (12, 5)].map (fun p => gfMul p.1 p.2) =
      [3, 4, 10, 1, 9, 12, 9] := by decide +kernel

theorem test_fadd : getX (run (withX State.reset [(1, 7), (2, 11)]) 0x10612000) 6 = 12 := by decide +kernel

theorem test_fadd_first_bad_operand :
    faultView (run (withX State.reset [(1, 16), (2, 17)]) 0x10312000) = stoppedWith 0x09 0x10312000 0x10 := by
  decide +kernel

theorem test_fmul : getX (run (withX State.reset [(1, 5)]) 0x11111000) 1 = 2 := by decide +kernel

theorem test_fmul_full_width_check :
    faultView (run (withX State.reset [(1, 3), (2, 0x8000000000000000)]) 0x11312000) =
      stoppedWith 0x09 0x11312000 0x8000000000000000 := by decide +kernel

theorem test_finv : getX (run (withX State.reset [(3, 4)]) 0x12430000) 4 = 13 := by decide +kernel

theorem test_finv_zero : faultView (run State.reset 0x12430000) = stoppedWith 0x0A 0x12430000 0 := by decide +kernel

/-! ### Groups (95_test_vectors.md 2.4) -/

theorem test_gzero : getG (run (setG State.reset 3 ramp) 0x20300000) 3 = zeroGroup := by decide +kernel

theorem test_gcopy : getG (run onRamp 0x21200000) 2 = ramp := by decide +kernel

theorem test_grand_counts_its_draw :
    (run State.reset 0x22500000).draws = 1 ∧ getG (run onRamp 0x22500000) 0 = ramp := by decide +kernel

theorem test_geq :
    getX (run onRamp 0x23100000) 1 = 1 ∧ getX (run (setG onRamp 1 ramp2) 0x23101000) 1 = 0 := by decide +kernel

theorem test_gzpos : getX (run onRamp 0x24400000) 4 = 0x0001000100010001 := by decide +kernel

theorem test_gnzpos : getX (run onRamp 0x25400000) 4 = 0xFFFEFFFEFFFEFFFE := by decide +kernel

theorem test_gget : getX (run (withX onRamp [(6, 21)]) 0x26706000) 7 = 5 := by decide +kernel

theorem test_gget_index :
    faultView (run (withX onRamp [(1, 64)]) 0x26401000) = stoppedWith 0x06 0x26401000 0x40 := by decide +kernel

theorem test_gset : getG (run (withX State.reset [(1, 2), (2, 9)]) 0x27312000) 3 = ⟨4, 0, 0, 4⟩ := by decide +kernel

theorem test_gset_index_before_value :
    faultView (run (withX State.reset [(3, 70), (2, 20)]) 0x27032000) = stoppedWith 0x06 0x27032000 0x46 := by
  decide +kernel

theorem test_gaddat :
    getG (run (withX onRamp [(1, 3), (2, 3)]) 0x28012000) 0 =
      ⟨0xAAAAAAAAAAAAAAA2, 0xCCCCCCCCCCCCCCC4, ramp.b2, ramp.b3⟩ := by decide +kernel

theorem test_gzsub :
    getG (run (withX onRamp [(2, 0xFFFF)]) 0x29020000) 0 = ⟨0xAAAA, 0xCCCC, 0xF0F0, 0xFF00⟩ := by decide +kernel

theorem test_gzat : (getG (run (withX onRamp [(1, 1)]) 0x2A010000) 0).b0 = 0xAAAAAAAAAAAAAAA8 := by decide +kernel

theorem test_gmix :
    getG (run (withX (setG onRamp 1 ramp2) [(2, 0x00000000FFFFFFFF)]) 0x2B012000) 0 =
      ⟨0xFF00FF00AAAAAAAA, 0x55AA55AACCCCCCCC, 0xCCCCCCCCF0F0F0F0, 0xF0F0F0F0FF00FF00⟩ := by decide +kernel

theorem test_gfnz : getX (run onRamp 0x2C500000) 5 = 1 ∧ getX (run State.reset 0x2C500000) 5 = 64 := by decide +kernel

theorem test_gadd : getG (run (setG onRamp 1 ramp) 0x2D010000) 0 = zeroGroup := by decide +kernel

theorem test_gscale : getG (run (withX onRamp [(1, 2)]) 0x2E101000) 1 = ramp2 := by decide +kernel

theorem test_gscalei : getG (run (withX onRamp [(1, 2)]) 0x2F100100) 1 = ramp2 := by decide +kernel

theorem test_gfma : getG (run (withX (setG onRamp 2 ramp) [(3, 3)]) 0x30203000) 2 = ramp2 := by decide +kernel

theorem test_gfmam :
    getG (run (withX (setG onRamp 2 ramp) [(3, 3), (2, 0xFFFF)]) 0x31203200) 2 =
      ⟨0xAAAAAAAAAAAAFF00, 0xCCCCCCCCCCCC55AA, 0xF0F0F0F0F0F0CCCC, 0xFF00FF00FF00F0F0⟩ := by decide +kernel

theorem test_gfmai : getG (run (withX onRamp [(1, 3)]) 0x32200100) 2 = ramp3 := by decide +kernel

/-! ### Fixed matrices (95_test_vectors.md 2.5) -/

theorem test_mzero : (getM (run (setM State.reset 0 matP) 0x40000000) 0)[1] = zeroGroup := by decide +kernel

theorem test_mident : (getM (run State.reset 0x41100000) 1)[5] = ⟨0x20, 0, 0, 0⟩ := by decide +kernel

theorem test_mrand_counts_its_draws : (run State.reset 0x42400000).draws = 64 := by decide +kernel

theorem test_mcopy : (getM (run (setM State.reset 0 matP) 0x43200000) 2)[2] = ⟨4, 4, 6, 0⟩ := by decide +kernel

theorem test_mswap :
    (fun m : Mat64 => (m[0], m[1])) 
      (getM (run (withX (setM State.reset 0 identMatrix) [(1, 0), (2, 1)]) 0x44012000) 0) =
      (⟨2, 0, 0, 0⟩, ⟨1, 0, 0, 0⟩) := by decide +kernel

theorem test_mswap_index :
    faultView (run (withX State.reset [(1, 0x8000000000000000)]) 0x44010000) =
      stoppedWith 0x06 0x44010000 0x8000000000000000 := by decide +kernel

/-- MMUL of P and P gives a row 2 of 7, 11, 6. -/
theorem test_mmul : (getM (run (setM State.reset 0 matP) 0x45300000) 3)[2] = ⟨3, 7, 5, 2⟩ := by decide +kernel

/-- Pivot step 0 of P with companion IDENT, by hand from 43_matrix.md R227: the inverse of 2 is 9, row 0 becomes 1, 8, 0,
and row 1, whose multiplier is 5, becomes 0, 15, 0 with companion row 11, 1, 0. -/
theorem test_mgj_pivot_step :
    (fun t : Elim => t.mask.toNat = 1 ∧ [t.m[0], t.m[1], t.c[0], t.c[1], t.c[2]] =
      [⟨1, 0, 0, 2⟩, ⟨2, 2, 2, 2⟩, ⟨1, 0, 0, 1⟩, ⟨3, 1, 0, 1⟩, ⟨4, 0, 0, 0⟩])
      (pivotStep { m := matP, c := identMatrix, mask := 0 } 0) := by decide +kernel

/-- Pivot step 0 of V-M7, the block [[0,1],[1,1]]: the pivot is found at row 1 and swapped into row 0. -/
theorem test_mgj_pivot_swap :
    (fun t : Elim => [t.m[0], t.m[1], t.c[0], t.c[1]] = [⟨3, 0, 0, 0⟩, ⟨2, 0, 0, 0⟩, ⟨2, 0, 0, 0⟩, ⟨1, 0, 0, 0⟩])
      (pivotStep { m := topLeft ⟨2, 0, 0, 0⟩ ⟨3, 0, 0, 0⟩ ⟨4, 0, 0, 0⟩, c := identMatrix, mask := 0 } 0) := by
  decide +kernel

theorem test_mgj_alias : faultView (run State.reset 0x46122000) = stoppedWith 0x05 0x46122000 2 := by decide +kernel

theorem test_msym :
    getX (run (setM State.reset 0 matP) 0x47300000) 3 = 0 ∧
    getX (run (setM State.reset 0 identMatrix) 0x47300000) 3 = 1 := by decide +kernel

theorem test_mgetr :
    getG (run (withX (setM State.reset 1 matPinv) [(5, 2)]) 0x48115000) 1 = ⟨2, 6, 7, 0⟩ := by decide +kernel

theorem test_mputr :
    (fun m : Mat64 => (m[4], m[5])) (getM (run (withX (setM State.reset 1 identMatrix) [(1, 5)]) 0x49112000) 1) =
      (⟨0x10, 0, 0, 0⟩, zeroGroup) := by decide +kernel

theorem test_mputr_index :
    faultView (run (withX State.reset [(1, 64)]) 0x49112000) = stoppedWith 0x06 0x49112000 0x40 := by decide +kernel

/-! ### Block matrices (95_test_vectors.md 2.6) -/

theorem test_bcfg :
    (fun t : State => (descWord (getB t 0), t.status.allocfail))
      (run (withX State.reset [(1, 65534), (2, 2)]) 0x50012000) = (0x800000020000FFFE, false) := by decide +kernel

theorem test_bcfg_overlap :
    (fun t : State => (descWord (getB t 0), t.status.allocfail, t.retired))
      (run (withX (setB State.reset 1 ⟨true, 0, 3⟩) [(1, 2), (2, 3)]) 0x50012000) = (0, true, 1) := by
  decide +kernel

theorem test_bfree :
    descWord (getB (run blocks 0x51000000) 0) = 0 ∧ blockRow (run blocks 0x51000000) 0 1 = ⟨0x22, 2, 0, 0⟩ := by
  decide +kernel

theorem test_bgetr : getG (run (withX blocks [(1, 1)]) 0x52001000) 0 = ⟨0x22, 2, 0, 0⟩ := by decide +kernel

theorem test_bgetr_row :
    faultView (run (withX blocks [(1, 3)]) 0x52001000) = stoppedWith 0x07 0x52001000 3 := by decide +kernel

theorem test_bputr :
    rowsAfter (run (withX blocks [(1, 2)]) 0x53013000) 0 =
      [⟨0x3, 0x4, 0, 0⟩, ⟨0x22, 0x2, 0, 0⟩, zeroGroup] := by decide +kernel

theorem test_bat : getX (run (withX blocks [(1, 1), (2, 5)]) 0x54301200) 3 = 1 := by decide +kernel

theorem test_bat_row_before_column :
    faultView (run (withX blocks [(1, 3), (2, 64)]) 0x54401200) = stoppedWith 0x07 0x54401200 3 := by decide +kernel

theorem test_bsetat :
    rowsAfter (run (withX blocks [(1, 2), (2, 9)]) 0x55012000) 0 =
      [⟨0x3, 0x4, 0, 0⟩, ⟨0x22, 0x2, 0, 0⟩, zeroGroup] := by decide +kernel

theorem test_bsetat_index_before_value :
    faultView (run (withX blocks [(1, 1), (2, 64), (3, 99)]) 0x55112300) = stoppedWith 0x06 0x55112300 0x40 := by
  decide +kernel

theorem test_bzero :
    rowsAfter (run (blocksWith rowsQ) 0x56100000) 1 = [zeroGroup, zeroGroup, zeroGroup] ∧
    rowsAfter (run (blocksWith rowsQ) 0x56100000) 0 = rowsQ := by decide +kernel

theorem test_brand_counts_its_draws :
    (run blocks 0x57000000).draws = 3 ∧
    faultView (run State.reset 0x57000000) = stoppedWith 0x03 0x57000000 0 := by decide +kernel

theorem test_bcopy : rowsAfter (run blocks 0x58100000) 1 = rowsQ := by decide +kernel

theorem test_bcopy_rnum :
    faultView (run (setB blocks 2 ⟨true, 10, 2⟩) 0x58020000) = stoppedWith 0x04 0x58020000 0x0000000300000002 := by
  decide +kernel

theorem test_bgram :
    (fun m : Mat64 => [m[1], m[9], m[10]]) (getM (run blocks 0x59000000) 0) =
      [⟨0x21, 0x24, 0x2, 0⟩, ⟨0x200, 0x200, 0, 0⟩, zeroGroup] := by decide +kernel

theorem test_bgram_desc : faultView (run blocks 0x59030000) = stoppedWith 0x03 0x59030000 3 := by decide +kernel

theorem test_bzcm : getX (run blocks 0x5A400000) 4 = 0xFFFFFFFFFFFFFDD8 := by decide +kernel

theorem test_bnzcm : getX (run blocks 0x5B600000) 6 = 0x227 := by decide +kernel

theorem test_bzcms :
    getX (run (withX blocks [(1, 0), (2, 2)]) 0x5C501200) 5 = 0xFFFFFFFFFFFFFDF8 ∧
    getX (run blocks 0x5C501200) 5 = ones := by decide +kernel

theorem test_bzcms_window :
    faultView (run (withX blocks [(1, 4095), (2, 2)]) 0x5C401200) = stoppedWith 0x08 0x5C401200 0xFFF := by
  decide +kernel

theorem test_bfma :
    rowsAfter (run (setM blocks 1 matP) 0x5D101000) 1 =
      [⟨0x1, 0x7, 0x5, 0x6⟩, ⟨0x23, 0x3, 0x1, 0x1⟩, ⟨0, 0, 0x200, 0⟩] := by decide +kernel

theorem test_bfmad :
    rowsAfter (run (withX (setM blocks 1 identMatrix) [(5, 0xFF)]) 0x5E101500) 1 =
      [⟨0x3, 0x4, 0, 0⟩, ⟨0x22, 0x2, 0, 0⟩, zeroGroup] := by decide +kernel

theorem test_bdfma :
    rowsAfter (run (withX (setM (blocksWith rowsQ) 1 identMatrix) [(5, 0xFF)]) 0x5F101500) 1 =
      [zeroGroup, zeroGroup, ⟨0, 0, 0x200, 0⟩] := by decide +kernel

theorem test_bmix :
    rowsAfter (run (withX blocks [(5, 0xFF)]) 0x60105000) 1 = [zeroGroup, zeroGroup, ⟨0, 0, 0x200, 0⟩] := by
  decide +kernel

theorem test_badd :
    rowsAfter (run (blocksWith rowsQ) 0x61100000) 1 = [zeroGroup, zeroGroup, zeroGroup] := by decide +kernel

/-! ### Exceptions, host port and reset (95_test_vectors.md 2.1, 2.7, 2.8) -/

theorem test_illegal_opcode :
    faultView (run State.reset 0x13FFFFFF) = stoppedWith 0x01 0x13FFFFFF 0x13 := by decide +kernel

theorem test_reserved_before_desc :
    faultView (run State.reset 0x56C00000) = stoppedWith 0x02 0x56C00000 0x00C00000 := by decide +kernel

theorem test_overrun :
    faultView (goesTo (step { State.reset with cpc := 4096, status := { State.reset.status with busy := true } })) =
      [0x0B, 4096, 0, 0x1000, 4096, 0, 1, 0] := by decide +kernel

theorem test_host_reads :
    [(0x000, 8), (0x004, 4), (0x008, 8), (0x000, 2), (0x004, 8), (0x058, 8)].map
      (fun p => (fun t : State => (t.readData, t.status.herr)) (hostAccess State.reset (.read p.1 p.2))) =
      [(0x0000000136314647, false), (1, false), (0x1000100000010000, false), (0, true), (0, true), (0, true)] := by
  decide +kernel

theorem test_host_writes :
    getX (hostAccess State.reset (.write 0x108 8 3)) 1 = 3 ∧
    (getG (hostAccess State.reset (.write 0x208 8 9)) 0).b1 = 9 ∧
    (getM (hostAccess State.reset (.write 0x108A0 8 7)) 1)[5].b0 = 7 ∧
    (rowLoad (hostAccess State.reset (.write 0x1000050 8 6)).mem 2).b2 = 6 ∧
    (hostAccess State.reset (.write 0x000 8 1)).status.herr = true := by decide +kernel

theorem test_host_command_word :
    (hostAccess State.reset (.write 0x20008 4 0x11312000)).mem =
      [(0x20009, 0x20), (0x2000A, 0x31), (0x2000B, 0x11)] := by decide +kernel

theorem test_host_two_words :
    (hostAccess { State.reset with mem := memStore32 (memStore32 [] 0x20008 0x11312000) 0x2000C 0x12430000 }
      (.read 0x20008 8)).readData = 0x1243000011312000 := by decide +kernel

theorem test_go_refused :
    (hostAccess { State.reset with status := { State.reset.status with fault := true } } (.write 0x010 8 1)).status =
      { State.reset.status with fault := true, herr := true } := by decide +kernel

/-! ### Witnesses: concrete states and operands that meet the hypotheses of the statements

One theorem per statement with hypotheses, named after it, with a witness for each of its clauses at the edge of its
range. -/

/-- A small unit: 8 rows, 4 index entries, 4 command words. X0 to X12 hold 0, 15, 16, 63, 64, 2, 3, 4, 1, 5, 6, 8, 2^63.
B0 holds Q, B1 and B2 follow it up to the last row, B3 is invalid. The index entries are 0, 2, 3, 0. -/
def bench : State :=
  { State.reset with
    params := { rowmemRows := 8, idxEntries := 4, cmdWords := 4, legal := by decide }
    x := #v[0, 15, 16, 63, 64, 2, 3, 4, 1, 5, 6, 8, 0x8000000000000000, 0, 0, 0]
    g := (Vector.replicate 16 zeroGroup).set 0 ramp
    m := ((Vector.replicate 8 zeroMatrix).set 0 matP).set 1 identMatrix
    b := #v[⟨true, 0, 3⟩, ⟨true, 3, 3⟩, ⟨true, 6, 2⟩, emptyDesc]
    mem := rowsStore (memStore32 (memStore32 [] (idxOffset 1) 2) (idxOffset 2) 3) 0 rowsQ }

/-- `bench` with a run in progress at CPC = 3, the last command word, which holds the word w. -/
def running (w : Word32) : State :=
  { bench with
    cpc := 3, status := { bench.status with busy := true }, mem := memStore32 bench.mem 0x2000C w }

/-- `running` where the sequencer's turn and a RESET are listed. -/
def listed (w : Word32) : State := { running w with inputs := [.sequencer, .reset ⟨bench.g, bench.m, bench.mem⟩] }

/-- `bench` after a fault. -/
def faultedBench : State :=
  { bench with faultCode := 0x0A, status := { bench.status with fault := true } }

/-- `bench` where B3 names a row past the last one: no run reaches it. -/
def outside : State := setB bench 3 ⟨true, 7, 2⟩

theorem witness_ResetGivesTheTableValues :
    (∃ draw rest, { bench with inputs := [.reset ⟨bench.g, bench.m, bench.mem⟩, .sequencer] }.inputs =
      .reset draw :: rest) ∧
    memWf bench.mem = true ∧ memMapped bench.params bench.mem = true ∧ bench.mem ≠ [] :=
  ⟨⟨_, _, rfl⟩, by decide +kernel⟩

theorem witness_EncodeAfterDecodeIsTheWord : decode 0x02100007 = .ok (.xli 1 7 0) := by decide

/-- The opcode 0x62 is no row's (30_encoding.md R109). -/
theorem opcode62_unassigned : ∀ p ∈ opcodeColumns, (0x62000000 : Word32) &&& 0xFF000000 ≠ p.1 := by
  have h : (opcodeColumns.all fun p => (0x62000000 : Word32) &&& 0xFF000000 != p.1) = true := by decide
  simpa using List.all_eq_true.mp h

theorem witness_DecodeFollowsMatchAndMask :
    (∀ p ∈ opcodeColumns, (0x62000000 : Word32) &&& 0xFF000000 ≠ p.1) ∧
    (∃ p ∈ opcodeColumns, (0x61330000 : Word32) &&& 0xFF000000 = p.1 ∧ (0x61330000 : Word32) &&& p.2 = p.1) ∧
    (∃ p ∈ opcodeColumns, (0x61340000 : Word32) &&& 0xFF000000 = p.1 ∧ (0x61340000 : Word32) &&& p.2 ≠ p.1) :=
  ⟨opcode62_unassigned, ⟨(0x61000000, 0xFFCCFFFF), by simp [opcodeColumns], by decide, by decide⟩,
    ⟨(0x61000000, 0xFFCCFFFF), by simp [opcodeColumns], by decide, by decide⟩⟩

theorem witness_StepRunsTheDecodedInstruction :
    ((running 0x01000000).inputs = [] ∧ (running 0x01000000).status.busy = true ∧
      (running 0x01000000).cpc.toNat < (running 0x01000000).params.cmdWords ∧
      decode (memLoad32 (running 0x01000000).mem (0x20000 + 4 * (running 0x01000000).cpc.toNat)) = .ok .halt) ∧
    (∃ rest, (listed 0x00000000).inputs = .sequencer :: rest ∧ (listed 0x00000000).status.busy = true ∧
      (listed 0x00000000).cpc.toNat < (listed 0x00000000).params.cmdWords ∧
      decode (memLoad32 (listed 0x00000000).mem (0x20000 + 4 * (listed 0x00000000).cpc.toNat)) = .ok .nop) ∧
    (bench.inputs = [] ∧ bench.status.busy = false) ∧
    (∃ rest, { bench with inputs := [.sequencer] }.inputs = .sequencer :: rest ∧
      { bench with inputs := [.sequencer] }.status.busy = false) ∧
    (∃ access rest, { bench with inputs := [.host (.read 0x018 8), .sequencer] }.inputs = .host access :: rest) :=
  ⟨by decide +kernel, ⟨_, rfl, by decide +kernel⟩, by decide +kernel, ⟨_, rfl, by decide +kernel⟩, ⟨_, _, rfl⟩⟩

/-- A turn of the host takes effect in a step: CPC is what it wrote. -/
theorem test_step_host_write :
    (goesTo (step { bench with inputs := [.host (.write 0x028 8 7), .sequencer] })).cpc = 7 ∧
    (goesTo (step { bench with inputs := [.host (.write 0x028 8 7), .sequencer] })).inputs = [.sequencer] := by
  decide +kernel

theorem witness_FetchPastCommandMemoryFaults :
    ({ running 0 with cpc := 4 }.status.busy = true ∧
      { running 0 with cpc := 4 }.params.cmdWords ≤ { running 0 with cpc := 4 }.cpc.toNat ∧
      { running 0 with cpc := 4 }.inputs = []) ∧
    ({ listed 0 with cpc := 4 }.status.busy = true ∧
      { listed 0 with cpc := 4 }.params.cmdWords ≤ { listed 0 with cpc := 4 }.cpc.toNat ∧
      ∃ rest, { listed 0 with cpc := 4 }.inputs = .sequencer :: rest) :=
  ⟨by decide +kernel, by decide +kernel, by decide +kernel, ⟨_, rfl⟩⟩

theorem witness_UndecodableWordFaults :
    ((running 0x62000000).status.busy = true ∧
      (running 0x62000000).cpc.toNat < (running 0x62000000).params.cmdWords ∧
      decode (memLoad32 (running 0x62000000).mem (0x20000 + 4 * (running 0x62000000).cpc.toNat)) =
        .error (.illegalOpcode 0x62) ∧
      decode (memLoad32 (running 0x40800000).mem (0x20000 + 4 * (running 0x40800000).cpc.toNat)) =
        .error (.reservedField 0x00800000) ∧ (running 0x62000000).inputs = []) ∧
    ((listed 0x62000000).status.busy = true ∧
      (listed 0x62000000).cpc.toNat < (listed 0x62000000).params.cmdWords ∧
      decode (memLoad32 (listed 0x62000000).mem (0x20000 + 4 * (listed 0x62000000).cpc.toNat)) =
        .error (.illegalOpcode 0x62) ∧
      decode (memLoad32 (listed 0x40800000).mem (0x20000 + 4 * (listed 0x40800000).cpc.toNat)) =
        .error (.reservedField 0x00800000) ∧ ∃ rest, (listed 0x62000000).inputs = .sequencer :: rest) :=
  ⟨by decide +kernel, by decide +kernel, by decide +kernel, by decide +kernel, by decide +kernel, ⟨_, rfl⟩⟩

theorem witness_CommandCompletesOrFaultsWithNoOtherEffect :
    (∃ t, exec (.brand 2) bench = .next t) ∧ (∃ t, exec .halt bench = .next t) ∧
    (∃ t, exec (.bcfg 3 0 0) bench = .next t) ∧ (∃ t, exec (.bzero 3) bench = .next t) :=
  ⟨next_of_isNext (by decide +kernel), next_of_isNext (by decide +kernel), next_of_isNext (by decide +kernel),
    next_of_isNext (by decide +kernel)⟩

theorem witness_CommandChangesOnlyItsDestinations :
    (∃ t, exec (.mgj 0 1 0) bench = .next t) ∧ xDest (.mgj 0 1 0) ≠ some 1 ∧ gDest (.gzero 0) ≠ some 15 ∧
    (2 : MReg) ∉ mDests (.mgj 0 1 0) ∧ bDest (.bfree 0) ≠ some 1 :=
  ⟨next_of_isNext (by decide +kernel), by decide, by decide, by decide, by decide⟩

theorem witness_CommandStoresOnlyInItsBlockMatrix :
    (∃ t, exec (.bzero 1) bench = .next t) ∧ rowsDest (.bzero 1) = some 1 ∧ (getB bench 1).valid = true ∧
    ¬ inRows (base bench 1) (rnum bench 1) 0x100005F ∧ ¬ inRows (base bench 1) (rnum bench 1) 0x10000C0 ∧
    ¬ inValidRows bench 0x1000100 ∧ (0xFFFFFF : Nat) < 0x1000000 := by
  refine ⟨next_of_isNext (by decide +kernel), by decide, by decide, ?_, ?_, ?_, by decide⟩
  · unfold inRows; decide +kernel
  · unfold inRows; decide +kernel
  · unfold inValidRows inRows; decide +kernel

theorem witness_StepKeepsTheDescriptorInvariant :
    DescInv (running 0x51000000) ∧ ∃ t, step (running 0x51000000) = .next t := by
  refine ⟨?_, next_of_isNext (by decide +kernel)⟩
  unfold DescInv descsInRange descsDisjoint
  decide +kernel

theorem witness_StepKeepsTheMemoryInvariant :
    MemInv (running 0x56200000) ∧ ∃ t, step (running 0x56200000) = .next t := by
  refine ⟨?_, next_of_isNext (by decide +kernel)⟩
  unfold MemInv
  decide +kernel

theorem witness_StepKeepsTheRunAndFaultInvariant :
    RunInv (running 0x01000000) ∧ FaultInv (running 0x01000000) ∧ (∃ t, step (running 0x01000000) = .next t) ∧
    RunInv faultedBench ∧ FaultInv faultedBench ∧ ∃ t, step faultedBench = .next t := by
  refine ⟨?_, ?_, next_of_isNext (by decide +kernel), ?_, ?_, next_of_isNext (by decide +kernel)⟩
  all_goals first | unfold RunInv | unfold FaultInv
  all_goals decide +kernel

theorem witness_StepAlwaysAnswersInRange : descsInRange bench := by
  unfold descsInRange
  decide +kernel

theorem witness_EveryRunEndsWithinTheBound :
    (running 0x01000000).inputs = [] ∧ (running 0x01000000).status.busy = true ∧ descsInRange (running 0x01000000) ∧
    descsDisjoint (running 0x01000000) := by
  unfold descsInRange descsDisjoint
  decide +kernel

theorem witness_FieldLaws : (2 : Elem) ≠ 0 ∧ ∃ a2 a4 a8, a2 = gfMul 2 2 ∧ a4 = gfMul a2 a2 ∧ a8 = gfMul a4 a4 :=
  ⟨by decide, _, _, _, rfl, rfl, rfl⟩

theorem witness_FieldCommandResults :
    ((getX bench 1).toNat ≤ 15 ∧ (getX bench 0).toNat ≤ 15) ∧ 15 < (getX bench 2).toNat ∧
    ((getX bench 1).toNat ≤ 15 ∧ 15 < (getX bench 2).toNat) ∧ getX bench 0 = 0 ∧
    ((getX bench 1).toNat ≤ 15 ∧ getX bench 1 ≠ 0) := by decide +kernel

theorem witness_GroupOneLaneResults :
    ((getX bench 3).toNat ≤ 63 ∧ (getX bench 1).toNat ≤ 15) ∧ (getX bench 3).toNat ≤ 63 ∧ 63 < (getX bench 4).toNat ∧
    ((getX bench 3).toNat ≤ 63 ∧ 15 < (getX bench 2).toNat) := by decide +kernel

theorem witness_GroupScaleAndMultiplyAddLanes :
    (getX bench 1).toNat ≤ 15 ∧ 15 < (getX bench 2).toNat := by decide +kernel

theorem witness_GroupIndexedScalarLanes :
    (getX bench 3).toNat ≤ 63 ∧ 63 < (getX bench 4).toNat := by decide +kernel

theorem witness_GroupComparisonsReadLanes :
    (∀ j < 64, lane (getG bench 1) j = lane (getG bench 2) j) ∧
    (∃ j < 64, lane (getG bench 0) j ≠ lane (getG bench 1) j) :=
  ⟨by decide +kernel, 63, by decide, by decide +kernel⟩

theorem witness_GroupLaneReads :
    (getX bench 3).toNat ≤ 63 ∧ 63 < (getX bench 4).toNat ∧
    (lane (getG bench 0) 1 ≠ 0 ∧ ∀ j < 1, lane (getG bench 0) j = 0) ∧
    (∀ j < 64, lane (getG bench 1) j = 0) := by decide +kernel

theorem witness_RandCommandsWriteDraws : blockReady bench 2 ∧ memWf bench.mem = true ∧ rnum bench 2 = 2 := by
  unfold blockReady
  decide +kernel

theorem witness_MatrixRowCommandResults :
    (getX bench 3).toNat = (63 : Fin 64).val ∧ (getX bench 0).toNat = (0 : Fin 64).val ∧ 63 < (getX bench 4).toNat ∧
    ((getX bench 3).toNat ≤ 63 ∧ 63 < (getX bench 12).toNat) := by decide +kernel

theorem witness_MsymTestsSymmetry :
    (∀ i j : Fin 64, i < j → entry (getM bench 2) i j = entry (getM bench 2) j i) ∧
    (∃ i j : Fin 64, i < j ∧ entry (getM bench 0) i j ≠ entry (getM bench 0) j i) := by
  refine ⟨?_, 0, 1, by decide, by decide +kernel⟩
  have h : ∀ r : Fin 64, (getM bench 2)[r] = zeroGroup := by decide +kernel
  intro i j _
  simp only [entry, h]
  rw [show lane zeroGroup j.val = 0 by simp [lane, zeroGroup], show lane zeroGroup i.val = 0 by simp [lane, zeroGroup]]

theorem witness_MgjWritesItsThreeResults :
    (7 : MReg) = 7 ∧ (0 : MReg) ≠ 1 ∧
    ∃ r, r = (List.finRange 64).foldl pivotStep { m := getM bench 0, c := getM bench 1, mask := 0 } :=
  ⟨rfl, by decide, _, rfl⟩

theorem witness_PivotStepFollowsTheAlgorithm :
    (∀ r : Fin 64, 1 ≤ r → entry (zeroMatrix.set 0 ⟨2, 0, 0, 0⟩) r 1 = 0) ∧
    (∃ p : Fin 64, 0 ≤ p ∧ entry (topLeft ⟨2, 0, 0, 0⟩ ⟨3, 0, 0, 0⟩ ⟨4, 0, 0, 0⟩) p 0 ≠ 0 ∧
      (∀ r : Fin 64, 0 ≤ r → r < p → entry (topLeft ⟨2, 0, 0, 0⟩ ⟨3, 0, 0, 0⟩ ⟨4, 0, 0, 0⟩) r 0 = 0) ∧
      gfMul (entry (topLeft ⟨2, 0, 0, 0⟩ ⟨3, 0, 0, 0⟩ ⟨4, 0, 0, 0⟩) p 0) 1 = 1) :=
  ⟨by decide +kernel, 1, by decide, by decide +kernel, by decide +kernel, by decide +kernel⟩

/-- The elimination of IDENT sets every mask bit. -/
theorem witness_PivotedColumnsAreUnitColumns :
    (∀ i : Fin 64, (gaussJordan identMatrix identMatrix).mask.getLsbD i.val = true) ∧
    (gaussJordan identMatrix identMatrix).mask = ones := by
  rw [gaussJordan_identMatrix]
  decide

/-- B0 may be placed at rows 0 to 2, up to B1 (its own range does not count); not at rows 0 to 3, nor with no row, nor at
row 8. -/
theorem witness_BcfgPlacesOrFails :
    (1 ≤ (getX bench 6).toNat ∧ (getX bench 0).toNat + (getX bench 6).toNat ≤ bench.params.rowmemRows ∧
      ∀ j, j ≠ (0 : BReg) → (getB bench j).valid = true →
        (getX bench 0).toNat + (getX bench 6).toNat ≤ base bench j ∨ base bench j + rnum bench j ≤ (getX bench 0).toNat) ∧
    ¬ (∀ j, j ≠ (0 : BReg) → (getB bench j).valid = true →
        (getX bench 0).toNat + (getX bench 7).toNat ≤ base bench j ∨ base bench j + rnum bench j ≤ (getX bench 0).toNat) ∧
    ¬ 1 ≤ (getX bench 0).toNat ∧ ¬ (getX bench 11).toNat + (getX bench 8).toNat ≤ bench.params.rowmemRows := by
  decide +kernel

theorem witness_BlockRowCommandResults :
    (blockReady bench 0 ∧ (getX bench 5).toNat < rnum bench 0 ∧ memWf bench.mem = true) ∧
    (getB bench 3).valid = false ∧ ((getB bench 0).valid = true ∧ rnum bench 0 ≤ (getX bench 6).toNat) := by
  unfold blockReady
  decide +kernel

theorem witness_BlockElementCommandResults :
    (blockReady bench 0 ∧ (getX bench 5).toNat < rnum bench 0 ∧ (getX bench 3).toNat ≤ 63 ∧
      (getX bench 1).toNat ≤ 15 ∧ memWf bench.mem = true ∧ 15 < (getX bench 2).toNat) ∧
    (getB bench 3).valid = false ∧ ((getB bench 0).valid = true ∧ rnum bench 0 ≤ (getX bench 6).toNat) ∧
    ((getB bench 0).valid = true ∧ (getX bench 5).toNat < rnum bench 0 ∧ 63 < (getX bench 4).toNat) := by
  unfold blockReady
  decide +kernel

/-- Two block operands of one row count, different and equal; these meet the hypotheses of BZERO, BCOPY, BFMA, BFMAD, BDFMA,
BMIX, BADD, BGRAM, BZCM and BNZCM. -/
theorem witness_BlockZeroAndCopyRows :
    blockReady bench 2 ∧ pairReady bench 1 0 ∧ pairReady bench 2 2 := by
  unfold pairReady blockReady
  decide +kernel

theorem witness_BgramIsTheGramian : blockReady bench 0 := by
  unfold blockReady
  decide +kernel

theorem witness_GramianIsSymmetric : blockReady bench 0 ∧ ∃ t, exec (.bgram 3 0) bench = .next t := by
  refine ⟨witness_BgramIsTheGramian, next_of_isNext (by decide +kernel)⟩

theorem witness_BlockColumnMasks : blockReady bench 0 := witness_BgramIsTheGramian

/-- The window of two entries 0 and 2; the window of all four entries, whose third is the first bad one; the empty window at
the end of index memory; and windows one entry too long. -/
theorem witness_BzcmsOverTheListedRows :
    blockReady bench 0 ∧
    ((getX bench 0).toNat + (getX bench 5).toNat ≤ bench.params.idxEntries ∧
      ∀ k < (getX bench 5).toNat, (idxRead bench ((getX bench 0).toNat + k)).toNat < rnum bench 0) ∧
    ((getX bench 7).toNat + (getX bench 0).toNat ≤ bench.params.idxEntries ∧
      ∀ k < (getX bench 0).toNat, (idxRead bench ((getX bench 7).toNat + k)).toNat < rnum bench 0) ∧
    bench.params.idxEntries < (getX bench 7).toNat + (getX bench 8).toNat ∧
    ((getX bench 0).toNat + (getX bench 7).toNat ≤ bench.params.idxEntries ∧ 2 < (getX bench 7).toNat ∧
      rnum bench 0 ≤ (idxRead bench ((getX bench 0).toNat + 2)).toNat ∧
      ∀ l < 2, (idxRead bench ((getX bench 0).toNat + l)).toNat < rnum bench 0) := by
  unfold blockReady
  decide +kernel

theorem witness_BlockMultiplyAddRows : pairReady bench 1 0 ∧ pairReady bench 2 2 := witness_BlockZeroAndCopyRows.2

theorem witness_BlockMixAndAddRows : pairReady bench 1 0 ∧ pairReady bench 2 2 := witness_BlockZeroAndCopyRows.2

theorem witness_InvalidDescriptorFaults :
    (getB bench 3).valid = false ∧ (getB bench 0).valid = true := by decide +kernel

theorem witness_DifferentRowCountsFault :
    (getB bench 0).valid = true ∧ (getB bench 2).valid = true ∧ (getB bench 0).rnum ≠ (getB bench 2).rnum := by
  decide +kernel

/-- In `bench` the descriptors named lie inside ROWMEM, up to its last row, or are not valid. In `outside` B3 runs one row
past it; its last row index, the last index entry and B2's equal row count meet the premises of the stops. -/
theorem witness_RowsOutsideMemoryStopTheModel :
    ((∀ k ∈ namedBlocks (.badd 2 2), (getB bench k).valid = true →
        base bench k + rnum bench k ≤ bench.params.rowmemRows) ∧
      (∀ k ∈ namedBlocks (.bcopy 3 0), (getB bench k).valid = true →
        base bench k + rnum bench k ≤ bench.params.rowmemRows) ∧ namedBlocks .nop = []) ∧
    ((3 : BReg) ∈ namedBlocks (.bcopy 0 3) ∧ (getB outside 3).valid = true ∧
      outside.params.rowmemRows < base outside 3 + rnum outside 3) ∧
    (getX outside 8).toNat < rnum outside 3 ∧ (getX outside 3).toNat ≤ 63 ∧ (getX outside 1).toNat ≤ 15 ∧
    ((getX outside 6).toNat + (getX outside 8).toNat ≤ outside.params.idxEntries ∧
      ∀ n < (getX outside 8).toNat, (idxRead outside ((getX outside 6).toNat + n)).toNat < rnum outside 3) ∧
    ((getB outside 2).valid = true ∧ (getB outside 2).rnum = (getB outside 3).rnum ∧ (2 : BReg) ≠ 3) := by
  decide +kernel

theorem witness_GoStartsOrIsRefused :
    (1 : Word).getLsbD 0 = true ∧ (running 0).status.busy = true ∧
    (faultedBench.status.busy = false ∧ faultedBench.status.fault = true) ∧
    (bench.status.busy = false ∧ bench.status.fault = false) := by decide +kernel

theorem witness_BusyRejectsAllButControlAccesses :
    (running 0).status.busy = true ∧
    ((∀ off w, HostAccess.write 0x010 8 1 = .read off w → 0x028 ≤ off) ∧
      ∀ off w v, HostAccess.write 0x010 8 1 = .write off w v → off < 0x018 ∨ 0x028 ≤ off) ∧
    ((∀ off w, HostAccess.read 0x028 8 = .read off w → 0x028 ≤ off) ∧
      ∀ off w v, HostAccess.read 0x028 8 = .write off w v → off < 0x018 ∨ 0x028 ≤ off) ∧
    (∃ off w, HostAccess.read 0x024 4 = .read off w ∧ legalShape (.read 0x024 4) ∧ off < 0x028) := by
  refine ⟨by decide +kernel, ⟨?_, ?_⟩, ⟨?_, ?_⟩, ⟨_, _, rfl, ?_, by decide⟩⟩
  · intro off w h
    cases h
  · intro off w v h
    cases h
    decide
  · intro off w h
    cases h
    decide
  · intro off w v h
    cases h
  · unfold legalShape
    decide

/-- Ill-shaped accesses at each edge, a reserved offset of each kind, and the edges of the read-only registers. -/
theorem witness_IllegalAccessesAreRejected :
    (¬ legalShape (.read 0x000 2) ∧ ¬ legalShape (.read 0x004 8) ∧ ¬ legalShape (.write 0x2000000 8 0)) ∧
    (∀ o ∈ [0x058, 0x080, 0x0FC, 0x180, 0x1FC, 0x400, 0xFFFC, 0x14000, 0x1FFFC, 0x20010, 0x2FFFC, 0x30010, 0x3FFFC,
        0x40000, 0xFFFFFC, 0x1000100, 0x1FFFFFC], reservedOffset bench.params o) ∧
    (∀ o ∈ [0x000, 0x008, 0x030, 0x050, 0x060, 0x078], readOnlyOffset o) := by
  unfold legalShape reservedOffset readOnlyOffset
  decide +kernel

theorem witness_HostReadsBackItsWrites :
    bench.status.busy = false ∧ memWf bench.mem = true ∧
    (∀ o ∈ [0x100, 0x178, 0x200, 0x3F8, 0x10000, 0x13FF8, 0x20000, 0x20008, 0x30008, 0x1000000, 0x10000F8],
      o % 8 = 0 ∧ plainOffset bench.params o ∧ plainOffset bench.params (o + 7)) ∧
    (∀ o ∈ [0x104, 0x2000C, 0x3000C, 0x10000FC], o % 4 = 0 ∧ plainOffset bench.params o) := by
  unfold plainOffset
  decide +kernel

/-- The premises of the frame of a write: an access (offset, width) and another location, the other half of its slot, the
next slot, or at the edge of the next region. -/
theorem witness_HostReadsBackItsWrites_frame :
    bench.status.busy = false ∧
    (∀ p ∈ [(0x100, 4, 0x104), (0x104, 4, 0x100), (0x17C, 4, 0x200), (0x10000, 8, 0x10008), (0x20008, 8, 0x20004),
        (0x3000C, 4, 0x1000000), (0x10000FC, 4, 0x10000F8)], p.1 % p.2.1 = 0 ∧ p.2.2 % 4 = 0) ∧
    (∀ p ∈ [(0x100, 4, 0x104), (0x104, 4, 0x100), (0x17C, 4, 0x200), (0x10000, 8, 0x10008), (0x20008, 8, 0x20004),
        (0x3000C, 4, 0x1000000), (0x10000FC, 4, 0x10000F8)], p.2.2 + 4 ≤ p.1 ∨ p.1 + p.2.1 ≤ p.2.2) ∧
    (∀ o ∈ [0x100, 0x103, 0x104, 0x107, 0x17C, 0x17F, 0x200, 0x10000, 0x10007, 0x10008, 0x20004, 0x20008, 0x2000F,
        0x3000C, 0x3000F, 0x1000000, 0x10000F8, 0x10000FC, 0x10000FF], plainOffset bench.params o) := by
  unfold plainOffset
  decide +kernel

/-- The premises of the map: the last row, command word and index entry of `bench`, and accesses to bytes of the memories
at both ends of each. -/
theorem witness_HostReadsBackItsWrites_map :
    bench.status.busy = false ∧ memWf bench.mem = true ∧
    7 < bench.params.rowmemRows ∧ 3 < bench.params.cmdWords ∧ 3 < bench.params.idxEntries ∧
    (∀ p ∈ [(0x20000, 8), (0x20008, 8), (0x2000C, 4), (0x30000, 4), (0x30008, 8), (0x1000000, 8), (0x10000FC, 4)],
      p.1 % p.2 = 0 ∧ memoryOffset bench.params p.1 ∧ memoryOffset bench.params (p.1 + p.2 - 1)) := by
  unfold memoryOffset
  decide +kernel

/-- Idle, every control register; busy, the last one that may be read, 0x020; a value without GO in both widths. -/
theorem witness_ControlRegisterReadsAndWrites :
    (bench.status.busy = false ∧ (controlRegisters bench).length = 15) ∧
    ((running 0).status.busy = true ∧ ∃ p ∈ controlRegisters (running 0), p.1 = 0x020 ∧ p.1 < 0x028) ∧
    (0xFFFFFFFFFFFFFFFE : Word).getLsbD 0 = false := by decide +kernel

/-- A 4-byte write of the upper half of a slot leaves the lower half (20_memory.md R74). -/
theorem test_host_write_half :
    getX (hostAccess bench (.write 0x10C 4 0x12345678)) 1 = 0x123456780000000F := by decide +kernel

/-- The last plane of the last G register, the last X register, and a plane of M0 (20_memory.md R72). -/
theorem test_host_map :
    (hostAccess { bench with x := bench.x.set 15 9 } (.read 0x178 8)).readData = 9 ∧
    (getG (hostAccess bench (.write 0x3F8 8 5)) 15).b3 = 5 ∧
    (hostAccess bench (.read 0x210 8)).readData = ramp.b2 ∧
    (hostAccess bench (.read 0x10028 8)).readData = 0 ∧
    (hostAccess bench (.read 0x10020 8)).readData = 3 := by decide +kernel

/-- A write of CTRL without GO does nothing, and a 4-byte write of CPC sets it (10_state.md R40, R43). -/
theorem test_host_ctrl_and_cpc :
    hostAccess bench (.write 0x010 4 0xFFFFFFFE) = bench ∧
    (hostAccess bench (.write 0x028 4 0xFFFFFFFFFFFFFFFF)).cpc = 0xFFFFFFFF := by decide +kernel

theorem witness_HostReturnsFromAFault : faultedBench.status.busy = false ∧ faultedBench.status.fault = true := by
  decide +kernel

end Sys2Proof.Tests
end

section
/-! ## Scope: every command completes or faults with no other effect (00_scope.md R15)

What `exec` can do is said once: `exec_outcome` gives a fault of one of the command's own checks, or one of the
effects of `CommandEffect` followed by the count of draws and the completion. The frame of a command is then a case
split over the eleven effects instead of the 55 commands. -/

namespace Sys2Proof.Proofs

open Sys2Proof.Machine Sys2Proof.Claims

/-! ### The faults a command raises itself -/

/-- A fault code a command can raise: 0x03 to 0x0A; the others belong to fetch and decode (60_exceptions.md R340). -/
def CommandFault (c : FaultCode) : Prop := 0x03 ≤ (faultCodeByte c).toNat ∧ (faultCodeByte c).toNat ≤ 0x0A

/-- A check that raises no other fault. -/
def CommandCheck (c : Option Trap) : Prop := ∀ tr, c = some tr → CommandFault tr.code

theorem commandCheck_none : CommandCheck none := nofun

theorem commandCheck_some {code : FaultCode} {info : Word} (hc : CommandFault code) :
    CommandCheck (some ⟨code, info⟩) := by
  rintro _ ⟨⟩
  exact hc

theorem commandCheck_ite {p : Prop} [Decidable p] {code : FaultCode} {info : Word} (hc : CommandFault code) :
    CommandCheck (if p then none else some ⟨code, info⟩) := by
  split
  · exact commandCheck_none
  · exact commandCheck_some hc

theorem commandCheck_firstTrap {checks : List (Option Trap)} (hc : ∀ c ∈ checks, CommandCheck c) :
    CommandCheck (firstTrap checks) :=
  fun tr h => hc _ (firstTrap_mem h) tr rfl

@[simp] theorem commandCheck_checkElem (v : Word) : CommandCheck (checkElem v) :=
  commandCheck_ite ⟨by decide, by decide⟩

@[simp] theorem commandCheck_checkIndex (v : Word) : CommandCheck (checkIndex v) :=
  commandCheck_ite ⟨by decide, by decide⟩

@[simp] theorem commandCheck_checkInvertible (v : Word) : CommandCheck (checkInvertible v) := by
  unfold checkInvertible
  split
  · exact commandCheck_some ⟨by decide, by decide⟩
  · exact commandCheck_none

@[simp] theorem commandCheck_checkAlias (a b : MReg) : CommandCheck (checkAlias a b) := by
  unfold checkAlias
  split
  · exact commandCheck_some ⟨by decide, by decide⟩
  · exact commandCheck_none

@[simp] theorem commandCheck_checkDesc (s : State) (i : BReg) : CommandCheck (checkDesc s i) :=
  commandCheck_ite ⟨by decide, by decide⟩

@[simp] theorem commandCheck_checkRow (s : State) (i : BReg) (v : Word) : CommandCheck (checkRow s i v) :=
  commandCheck_ite ⟨by decide, by decide⟩

@[simp] theorem commandCheck_checkDims (s : State) (d a : BReg) : CommandCheck (checkDims s d a) :=
  commandCheck_ite ⟨by decide, by decide⟩

theorem commandCheck_checkWindow (s : State) (start count : Word) : CommandCheck (checkWindow s start count) :=
  commandCheck_ite ⟨by decide, by decide⟩

theorem commandCheck_checkEntries (s : State) (i : BReg) (entries : List Word) :
    CommandCheck (checkEntries s i entries) :=
  commandCheck_firstTrap (by simp)

@[simp] theorem commandCheck_checkList (s : State) (i : BReg) (start count : Word) :
    CommandCheck (checkList s i start count) := by
  unfold checkList
  split
  next t h => exact commandCheck_some (commandCheck_checkWindow s start count t h)
  next => exact commandCheck_checkEntries s i _

/-! ### The effects of a completing command -/

/-- What command i may do to the registers and memories of s when it completes, apart from the count of draws, CPC and
RETIRED: each effect with the destination the command names and the guard its checks established. -/
inductive CommandEffect (i : Instr) (s : State) : State → Prop
  | nop (hi : i = .nop) : CommandEffect i s s
  | halt (hi : i = .halt) : CommandEffect i s (setHalted s)
  | writeX {d : XReg} (hd : xDest i = some d) (v : Word) : CommandEffect i s (setX s d v)
  | writeG {d : GReg} (hd : gDest i = some d) (v : Grp64) : CommandEffect i s (setG s d v)
  | writeM {d : MReg} (hd : mDests i = [d]) (v : Mat64) : CommandEffect i s (setM s d v)
  | eliminate {d : XReg} {a b : MReg} (hi : i = .mgj d a b) (m c : Mat64) (v : Word) :
      CommandEffect i s (setX (setM (setM s a m) b c) d v)
  | configure {d : BReg} {a b : XReg} (hi : i = .bcfg d a b)
      (hp : blockPlaceable s d (getX s a).toNat (getX s b).toNat = true) :
      CommandEffect i s
        (setB s d { valid := true, base := (getX s a).extractLsb' 0 32, rnum := (getX s b).extractLsb' 0 31 })
  | configureFails {d : BReg} {a b : XReg} (hi : i = .bcfg d a b)
      (hp : blockPlaceable s d (getX s a).toNat (getX s b).toNat = false) :
      CommandEffect i s (setAllocfail (setB s d emptyDesc))
  | release {d : BReg} (hi : i = .bfree d) : CommandEffect i s (setB s d emptyDesc)
  | storeRow {d : BReg} (hd : rowsDest i = some d) (hb : blockReady s d) {r : Nat} (hr : r < rnum s d) (v : Grp64) :
      CommandEffect i s (setBlockRow s d r v)
  | storeRows {d : BReg} (hd : rowsDest i = some d) (hb : blockReady s d) {rows : List Grp64}
      (hl : rows.length = rnum s d) : CommandEffect i s (setBlockRows s d rows)

/-- Two states that differ at most in X, G, M, the descriptors, STATUS and memory. -/
structure KeepsControl (s u : State) : Prop where
  params : u.params = s.params
  cpc : u.cpc = s.cpc
  irqEn : u.irqEn = s.irqEn
  faultCode : u.faultCode = s.faultCode
  faultPc : u.faultPc = s.faultPc
  faultInsn : u.faultInsn = s.faultInsn
  faultInfo : u.faultInfo = s.faultInfo
  retired : u.retired = s.retired
  draws : u.draws = s.draws
  inputs : u.inputs = s.inputs
  readData : u.readData = s.readData

/-- Each setter keeps these fields, by the laws of State. -/
theorem CommandEffect.keepsControl {i : Instr} {s u : State} (h : CommandEffect i s u) : KeepsControl s u := by
  cases h <;> constructor <;> simp

/-- Only HALT and a BCFG that fails write STATUS (10_state.md R41). -/
theorem CommandEffect.status_cases {i : Instr} {s u : State} (h : CommandEffect i s u) :
    (i = .halt ∧ u.status = { s.status with busy := false, done := true }) ∨
      ((∃ d a b, i = .bcfg d a b) ∧ u.status = { s.status with allocfail := true }) ∨
      (i ≠ .halt ∧ u.status = s.status) := by
  cases h with
  | halt hi => exact .inl ⟨hi, rfl⟩
  | configureFails hi => exact .inr (.inl ⟨⟨_, _, _, hi⟩, rfl⟩)
  | nop hi | eliminate hi | configure hi | release hi => exact .inr (.inr ⟨by simp [hi], rfl⟩)
  | writeX hd | writeG hd | writeM hd => exact .inr (.inr ⟨(by rintro rfl; cases hd), rfl⟩)
  | storeRow hd | storeRows hd => exact .inr (.inr ⟨(by rintro rfl; cases hd), by simp⟩)

/-- STATUS after an effect: BUSY and DONE by HALT, ALLOCFAIL at most by BCFG, untouched by every other command. -/
theorem CommandEffect.status_eq {i : Instr} {s u : State} (h : CommandEffect i s u) :
    (i = .halt → u.status = { s.status with busy := false, done := true }) ∧
      (∀ d a b, i = .bcfg d a b → u.status = s.status ∨ u.status = { s.status with allocfail := true }) ∧
      (i ≠ .halt → (∀ d a b, i ≠ .bcfg d a b) → u.status = s.status) := by
  rcases h.status_cases with ⟨rfl, hst⟩ | ⟨⟨d, a, b, rfl⟩, hst⟩ | ⟨hi, hst⟩
  · simp [hst]
  · simp [hst]
  · simp [hi, hst]

/-! ### What a command can do -/

/-- The states command i can lead to from s: a fault of its checks and nothing else (60_exceptions.md R342), or one of
its effects, with its draws counted, and its completion (45_sequencer.md R320). -/
inductive CommandOutcome (i : Instr) (s : State) : State → Prop
  | fault {tr : Trap} (ht : CommandFault tr.code) : CommandOutcome i s (raiseFault s tr (encode i))
  | complete {u : State} (he : CommandEffect i s u) : CommandOutcome i s (retire (takeDraws u (drawsTaken s i)))

section Shapes

variable {i : Instr} {s t u : State} {descs : List BReg} {checks : List (Option Trap)} {effect : State → State}

theorem command_outcome_draws (h : command i s checks effect = .next t) (hc : ∀ c ∈ checks, CommandCheck c)
    (hu : effect s = takeDraws u (drawsTaken s i)) (he : firstTrap checks = none → CommandEffect i s u) :
    CommandOutcome i s t := by
  rcases command_eq_next_iff.mp h with ⟨tr, htr, rfl⟩ | ⟨hn, rfl⟩
  · exact .fault (commandCheck_firstTrap hc tr htr)
  · exact hu ▸ .complete (he hn)

theorem command_outcome (h : command i s checks effect = .next t) (hc : ∀ c ∈ checks, CommandCheck c)
    (hd : drawsTaken s i = 0) (he : firstTrap checks = none → CommandEffect i s (effect s)) :
    CommandOutcome i s t :=
  command_outcome_draws h hc (hd ▸ rfl) he

theorem blockCommand_outcome_draws (h : blockCommand i s descs checks effect = .next t)
    (hc : ∀ c ∈ checks, CommandCheck c) (hu : effect s = takeDraws u (drawsTaken s i))
    (he : firstTrap checks = none → descs.all (descFits s) = true → CommandEffect i s u) :
    CommandOutcome i s t := by
  rcases blockCommand_eq_next_iff.mp h with ⟨tr, htr, rfl⟩ | ⟨hn, hf, rfl⟩
  · exact .fault (commandCheck_firstTrap hc tr htr)
  · exact hu ▸ .complete (he hn hf)

theorem blockCommand_outcome (h : blockCommand i s descs checks effect = .next t)
    (hc : ∀ c ∈ checks, CommandCheck c) (hd : drawsTaken s i = 0)
    (he : firstTrap checks = none → descs.all (descFits s) = true → CommandEffect i s (effect s)) :
    CommandOutcome i s t :=
  blockCommand_outcome_draws h hc (hd ▸ rfl) he

/-! ### The guards that a block command's checks establish -/

theorem blockReady_of_checks {d : BReg} (hn : firstTrap checks = none) (hf : descs.all (descFits s) = true)
    (hc : checkDesc s d ∈ checks) (hd : d ∈ descs) : blockReady s d :=
  ⟨checkDesc_eq_none_iff.mp (firstTrap_eq_none_iff.mp hn _ hc), descFits_iff.mp (List.all_eq_true.mp hf d hd)⟩

theorem row_lt_of_checks {d : BReg} {v : Word} (hn : firstTrap checks = none) (hc : checkRow s d v ∈ checks) :
    v.toNat < rnum s d :=
  checkRow_eq_none_iff.mp (firstTrap_eq_none_iff.mp hn _ hc)

theorem blockRows_length (s : State) (d : BReg) : (blockRows s d).length = rnum s d := rowsLoad_length _ _ _

/-- Storing as many rows as the source has is an effect of a command that checks two block operands (44_block.md R262,
R263). -/
theorem storeRows_of_pairChecks {d a : BReg} {rows : List Grp64} (hi : rowsDest i = some d)
    (hl : rnum s d = rnum s a → rows.length = rnum s d)
    (hn : firstTrap [checkDesc s d, checkDesc s a, checkDims s d a] = none)
    (hf : [d, a].all (descFits s) = true) : CommandEffect i s (setBlockRows s d rows) :=
  have hdims : (getB s d).rnum = (getB s a).rnum := checkDims_eq_none_iff.mp (firstTrap_eq_none_iff.mp hn _ (by simp))
  .storeRows hi (blockReady_of_checks hn hf (by simp) (by simp)) (hl (congrArg BitVec.toNat hdims))

theorem zipWith_blockRows_length {d a : BReg} (f : Grp64 → Grp64 → Grp64) (h : rnum s d = rnum s a) :
    (List.zipWith f (blockRows s d) (blockRows s a)).length = rnum s d := by
  simp [blockRows_length, h]

end Shapes

theorem bcfg_effect (d : BReg) (a b : XReg) (s : State) :
    CommandEffect (.bcfg d a b) s
      (if blockPlaceable s d (getX s a).toNat (getX s b).toNat then
        setB s d { valid := true, base := (getX s a).extractLsb' 0 32, rnum := (getX s b).extractLsb' 0 31 }
      else setAllocfail (setB s d emptyDesc)) := by
  split
  next hp => exact .configure rfl hp
  next hp => exact .configureFails rfl (Bool.eq_false_of_not_eq_true hp)

/-- Everything a command can do. -/
theorem exec_outcome {i : Instr} {s t : State} (h : exec i s = .next t) : CommandOutcome i s t := by
  unfold exec at h
  cases i with
  | nop => exact command_outcome h (by simp) rfl fun _ => .nop rfl
  | halt => exact command_outcome h (by simp) rfl fun _ => .halt rfl
  | xli | xins | xmov => exact command_outcome h (by simp) rfl fun _ => .writeX rfl _
  | fadd | fmul | finv => exact command_outcome h (by simp) rfl fun _ => .writeX rfl _
  | geq | gzpos | gnzpos | gget | gfnz => exact command_outcome h (by simp) rfl fun _ => .writeX rfl _
  | grand d =>
    exact command_outcome_draws (u := setG s d (draw256 s.draws)) h (by simp) rfl fun _ => .writeG rfl _
  | gzero | gcopy | gset | gaddat | gzsub | gzat | gmix | gadd | gscale | gscalei | gfma | gfmam | gfmai =>
    exact command_outcome h (by simp) rfl fun _ => .writeG rfl _
  | mrand d =>
    exact command_outcome_draws (u := setM s d (matrixOf fun r => draw256 (s.draws + r.val))) h (by simp) rfl
      fun _ => .writeM rfl _
  | mzero | mident | mcopy | mswap | mmul | mputr => exact command_outcome h (by simp) rfl fun _ => .writeM rfl _
  | mgj => exact command_outcome h (by simp) rfl fun _ => .eliminate rfl _ _ _
  | msym => exact command_outcome h (by simp) rfl fun _ => .writeX rfl _
  | mgetr => exact command_outcome h (by simp) rfl fun _ => .writeG rfl _
  | bcfg d a b => exact command_outcome h (by simp) rfl fun _ => bcfg_effect d a b s
  | bfree => exact command_outcome h (by simp) rfl fun _ => .release rfl
  | bgetr => exact blockCommand_outcome h (by simp) rfl fun _ _ => .writeG rfl _
  | bputr | bsetat =>
    exact blockCommand_outcome h (by simp) rfl fun hn hf =>
      .storeRow rfl (blockReady_of_checks hn hf (by simp) (by simp)) (row_lt_of_checks hn (by simp)) _
  | bat | bzcm | bnzcm | bzcms => exact blockCommand_outcome h (by simp) rfl fun _ _ => .writeX rfl _
  | bgram => exact blockCommand_outcome h (by simp) rfl fun _ _ => .writeM rfl _
  | bzero =>
    exact blockCommand_outcome h (by simp) rfl fun hn hf =>
      .storeRows rfl (blockReady_of_checks hn hf (by simp) (by simp)) List.length_replicate
  | brand d =>
    exact blockCommand_outcome_draws
      (u := setBlockRows s d ((List.range (rnum s d)).map fun r => draw256 (s.draws + r))) h (by simp) rfl
      fun hn hf => .storeRows rfl (blockReady_of_checks hn hf (by simp) (by simp)) (by simp)
  | bcopy d a =>
    exact blockCommand_outcome h (by simp) rfl (storeRows_of_pairChecks rfl ((blockRows_length s a).trans ∘ Eq.symm))
  | bfma | bfmad | bdfma | bmix | badd =>
    exact blockCommand_outcome h (by simp) rfl (storeRows_of_pairChecks rfl (zipWith_blockRows_length _))

/-! ### The obligation -/

theorem raiseFault_eq_faulted (s : State) (tr : Trap) (insn : Word32) :
    raiseFault s tr insn = faulted s (faultCodeByte tr.code) tr.info insn := rfl

/-- Settles O10: a fault is `faulted` by definition; a completion moves the two counters around an effect, whose frame
and STATUS are said once for all commands. -/
theorem commandCompletesOrFaultsWithNoOtherEffect : Obligations.CommandCompletesOrFaultsWithNoOtherEffect := by
  intro i s t h
  cases exec_outcome h with
  | fault ht =>
    obtain ⟨hlo, hhi⟩ := ht
    exact .inl ⟨_, _, hlo, hhi, raiseFault_eq_faulted s _ _⟩
  | complete he =>
    have hk := he.keepsControl
    exact .inr ⟨by simp [hk.cpc], by simp [hk.retired], hk.faultCode, hk.faultPc, hk.faultInsn, hk.faultInfo, hk.irqEn,
      hk.params, hk.inputs, hk.readData, by simp [hk.draws], he.status_eq⟩

end Sys2Proof.Proofs
end

section
/-! ## State and invariants: what a turn can do, and what every step keeps (10_state.md)

What `step` can do is said once: `step_outcome` gives one of five outcomes of a turn, and `hostAccess_outcome` one of four
outcomes of a host access. Each invariant is then a case split over these outcomes and over the effects of
`CommandEffect`. -/

namespace Sys2Proof.Proofs

open Sys2Proof.Machine Sys2Proof.Claims

/-! ### What a host access can do -/

/-- What one access of the host can do to s: a read's data, the rejection of a read or of a write, or the write of a slot
that the port lets through (20_memory.md R73 to R77). -/
inductive HostOutcome (s : State) : HostAccess → State → Prop
  | reads {off width : Nat} (data : Word) : HostOutcome s (.read off width) { s with readData := data }
  | rejectsRead {off width : Nat} : HostOutcome s (.read off width) (setHerr { s with readData := 0 })
  | rejectsWrite {off width : Nat} {v : Word} : HostOutcome s (.write off width v) (setHerr s)
  | writes {off width : Nat} {v : Word} {slot : Slot} (hs : slotAt s.params off width = some slot)
      (hp : wellPlaced off width = true) (hr : readOnly slot = false)
      (hb : s.status.busy = true → writableBusy slot = true) :
      HostOutcome s (.write off width v) (writeSlot s off width v slot)

theorem hostRead_outcome (s : State) (off width : Nat) : HostOutcome s (.read off width) (hostRead s off width) := by
  unfold hostRead
  split
  next slot _ =>
    split
    · exact .reads _
    · exact .rejectsRead
  next => exact .rejectsRead

theorem hostWrite_outcome (s : State) (off width : Nat) (v : Word) :
    HostOutcome s (.write off width v) (hostWrite s off width v) := by
  unfold hostWrite
  split
  next slot hs =>
    split
    next hg =>
      obtain ⟨⟨hp, hr⟩, hb⟩ : (wellPlaced off width = true ∧ readOnly slot = false) ∧
          (s.status.busy = false ∨ writableBusy slot = true) := by simpa using hg
      exact .writes hs hp hr fun hbusy => hb.resolve_left (by simp [hbusy])
    next => exact .rejectsWrite
  next => exact .rejectsWrite

/-- Everything a host access can do. -/
theorem hostAccess_outcome (s : State) : ∀ a : HostAccess, HostOutcome s a (hostAccess s a)
  | .read off width => hostRead_outcome s off width
  | .write off width v => hostWrite_outcome s off width v

/-- A GO is refused, or starts a run of an idle unit with no fault pending (45_sequencer.md R321). -/
theorem go_cases (s : State) :
    go s = setHerr s ∨ (s.status.busy = false ∧ s.status.fault = false ∧ go s = setRunning s) := by
  unfold go
  split
  next => exact .inl rfl
  next h => exact .inr (by simpa using h)

/-- Three fields no slot write reaches: the parameters, the descriptors and FAULT_CODE (20_memory.md R77). -/
theorem writeSlot_keeps (s : State) (off width : Nat) (v : Word) (slot : Slot) :
    (writeSlot s off width v slot).params = s.params ∧ (writeSlot s off width v slot).b = s.b ∧
      (writeSlot s off width v slot).faultCode = s.faultCode := by
  cases slot with
  | ctrl =>
    simp only [writeSlot]
    split
    · rcases go_cases s with h | ⟨-, -, h⟩ <;> simp [h]
    · simp
  | _ => simp [writeSlot]

/-- STATUS after a slot write: cleared bits of STATUS, a GO's refusal or start, or as it was. -/
theorem writeSlot_status_cases (s : State) (off width : Nat) (v : Word) (slot : Slot) :
    (∃ w, (writeSlot s off width v slot).status = clearStatus s.status w) ∨
      (writeSlot s off width v slot).status = { s.status with herr := true } ∨
      (s.status.fault = false ∧
        (writeSlot s off width v slot).status = { s.status with busy := true, done := false }) ∨
      (writeSlot s off width v slot).status = s.status := by
  cases slot with
  | ctrl =>
    simp only [writeSlot]
    split
    · rcases go_cases s with h | ⟨-, hf, h⟩
      · exact .inr (.inl (by simp [h]))
      · exact .inr (.inr (.inl ⟨hf, by simp [h]⟩))
    · exact .inr (.inr (.inr rfl))
  | statusReg => exact .inl ⟨_, rfl⟩
  | _ => exact .inr (.inr (.inr rfl))

/-- No host access reaches the parameters, the descriptors or FAULT_CODE (10_state.md R35, R44). -/
theorem hostAccess_keeps (s : State) (a : HostAccess) :
    (hostAccess s a).params = s.params ∧ (hostAccess s a).b = s.b ∧ (hostAccess s a).faultCode = s.faultCode := by
  generalize ht : hostAccess s a = t
  cases ht ▸ hostAccess_outcome s a with
  | reads | rejectsRead | rejectsWrite => exact ⟨rfl, rfl, rfl⟩
  | writes => exact writeSlot_keeps s _ _ _ _

/-! ### What a step can do -/

/-- What one turn can do to s, once the turn is taken off the list (10_state.md R30, 45_sequencer.md R320). -/
inductive TurnOutcome (s : State) : State → Prop
  | idle (hb : s.status.busy = false) : TurnOutcome s s
  | fetchFault (hb : s.status.busy = true) (tr : Trap) (insn : Word32) : TurnOutcome s (raiseFault s tr insn)
  | command (hb : s.status.busy = true) {i : Instr} {t : State} (h : CommandOutcome i s t) : TurnOutcome s t
  | host (a : HostAccess) : TurnOutcome s (hostAccess s a)
  | reset (draw : ResetDraw) : TurnOutcome s (applyReset s draw)

theorem sequencerStep_outcome {s t : State} (h : sequencerStep s = .next t) : TurnOutcome s t := by
  cases hb : s.status.busy with
  | false =>
    rw [sequencerStep_idle hb] at h
    cases h
    exact .idle hb
  | true =>
    cases hf : fetch s with
    | ok i => exact .command hb (exec_outcome (sequencerStep_of_ok hb hf ▸ h))
    | error e =>
      rw [sequencerStep_of_error hb hf] at h
      cases h
      exact .fetchFault hb _ _

/-- Everything a step can do: an outcome of the turn it takes. -/
theorem step_outcome {s t : State} (h : step s = .next t) : ∃ rest, TurnOutcome { s with inputs := rest } t := by
  cases hi : s.inputs with
  | nil => exact ⟨s.inputs, sequencerStep_outcome (step_of_nil hi ▸ h)⟩
  | cons turn rest =>
    refine ⟨rest, ?_⟩
    cases turn with
    | sequencer => exact sequencerStep_outcome (step_of_sequencer hi ▸ h)
    | host a =>
      rw [step_of_host hi] at h
      cases h
      exact .host a
    | reset draw =>
      rw [step_of_reset hi] at h
      cases h
      exact .reset draw

/-! ### RESET -/

theorem getB_reset (i : BReg) : getB State.reset i = emptyDesc := by
  simp [getB, State.reset]

theorem getB_applyReset (s : State) (draw : ResetDraw) (i : BReg) : getB (applyReset s draw) i = emptyDesc :=
  getB_reset i

/-- A byte written past every listed one is listed last. -/
theorem memPut_of_forall_lt {m : Memory} {a : Nat} {v : Byte} (h : ∀ c ∈ m, c.1 < a) (hv : v ≠ Config.unwrittenByte) :
    memPut m a v = m ++ [(a, v)] := by
  induction m with
  | nil => simp [memPut, hv]
  | cons c rest ih =>
    obtain ⟨hc, hrest⟩ := List.forall_mem_cons.mp h
    simp [memPut, hc, ih hrest]

/-- Writing the bytes of a canonical list in order, past the bytes already there, appends them. -/
theorem drawMemory_fold_append {P : Params} {cells acc : Memory} {lo : Nat} (hs : memSorted lo cells = true)
    (hm : memMapped P cells = true) (hacc : ∀ c ∈ acc, c.1 < lo) :
    cells.foldl (fun m c => if mappedByte P c.1 then memPut m c.1 c.2 else m) acc = acc ++ cells := by
  induction cells generalizing acc lo with
  | nil => simp
  | cons c rest ih =>
    obtain ⟨a, v⟩ := c
    obtain ⟨⟨hlo, hv⟩, hs'⟩ : (lo ≤ a ∧ v ≠ Config.unwrittenByte) ∧ memSorted (a + 1) rest = true := by
      simpa [memSorted] using hs
    obtain ⟨ha, hm'⟩ : mappedByte P a = true ∧ memMapped P rest = true := by simpa [memMapped] using hm
    have hlt : ∀ c ∈ acc, c.1 < a := fun c hc => Nat.lt_of_lt_of_le (hacc c hc) hlo
    have hlt' : ∀ c ∈ acc ++ [(a, v)], c.1 < a + 1 := by
      intro c hc
      rcases List.mem_append.mp hc with hc | hc
      · exact Nat.lt_succ_of_lt (hlt c hc)
      · simp [List.mem_singleton.mp hc]
    simp only [List.foldl_cons, ha, if_true, memPut_of_forall_lt hlt hv]
    rw [ih hs' hm' hlt', List.append_assoc, List.singleton_append]

/-- A canonical memory of existing bytes is what its own cells draw (10_state.md R54). -/
theorem drawMemory_self {P : Params} {mem : Memory} (hw : memWf mem = true) (hm : memMapped P mem = true) :
    drawMemory P mem = mem :=
  drawMemory_fold_append hw hm nofun

/-- Settles O2: the table's values are those of `applyReset`, and a memory is drawn by its own cells. -/
theorem resetGivesTheTableValues : Obligations.ResetGivesTheTableValues := by
  refine ⟨fun s rest draw hs => ?_, fun s rest g m mem hw hm => ?_⟩
  · refine ⟨_, step_of_reset hs, fun i => ?_, rfl, rfl, getB_applyReset _ draw, rfl, rfl, rfl, rfl,
      (by decide : statusWord State.reset.status = 0), (by decide : irqEnWord State.reset.irqEn = 0),
      rfl, rfl, rfl, rfl, rfl, rfl⟩
    simp [getX, applyReset, State.reset]
  · exact ⟨⟨g, m, mem⟩, _, step_of_reset rfl, rfl, rfl, drawMemory_self hw hm⟩

/-! ### The register frame of a command -/

/-- An effect changes no register but the destinations its command names (30_encoding.md R102). -/
theorem CommandEffect.register_frame {i : Instr} {s u : State} (h : CommandEffect i s u) :
    (∀ j, xDest i ≠ some j → getX u j = getX s j) ∧ (∀ j, gDest i ≠ some j → getG u j = getG s j) ∧
      (∀ j, j ∉ mDests i → getM u j = getM s j) ∧ (∀ j, bDest i ≠ some j → getB u j = getB s j) := by
  cases h with
  | nop | halt => exact ⟨fun _ _ => rfl, fun _ _ => rfl, fun _ _ => rfl, fun _ _ => rfl⟩
  | writeX hd v =>
    exact ⟨fun j hj => getX_setX_ne s (fun e => hj (hd.trans (congrArg some e))) v, fun _ _ => rfl, fun _ _ => rfl,
      fun _ _ => rfl⟩
  | writeG hd v =>
    exact ⟨fun _ _ => rfl, fun j hj => getG_setG_ne s (fun e => hj (hd.trans (congrArg some e))) v, fun _ _ => rfl,
      fun _ _ => rfl⟩
  | writeM hd v =>
    refine ⟨fun _ _ => rfl, fun _ _ => rfl, fun j hj => getM_setM_ne s (fun e => hj ?_) v, fun _ _ => rfl⟩
    simp [hd, e]
  | @eliminate d a b hi m c v =>
    subst hi
    refine ⟨fun j hj => ?_, fun _ _ => rfl, fun j hj => ?_, fun _ _ => rfl⟩
    · exact getX_setX_ne _ (fun e => hj (congrArg some e)) v
    · obtain ⟨ha, hb⟩ : j ≠ a ∧ j ≠ b := by simpa [mDests] using hj
      rw [getM_setX, getM_setM_ne _ hb.symm, getM_setM_ne _ ha.symm]
  | configure hi | configureFails hi | release hi =>
    subst hi
    exact ⟨fun _ _ => rfl, fun _ _ => rfl, fun _ _ => rfl, fun j hj => getB_setB_ne s (fun e => hj (congrArg some e)) _⟩
  | storeRow | storeRows => simp

/-- Settles O11: a fault changes no register, and a completion adds to an effect only draws, CPC and RETIRED. -/
theorem commandChangesOnlyItsDestinations : Obligations.CommandChangesOnlyItsDestinations := by
  intro i s t h
  cases exec_outcome h with
  | fault => exact ⟨fun _ _ => rfl, fun _ _ => rfl, fun _ _ => rfl, fun _ _ => rfl⟩
  | complete he => exact he.register_frame

/-! ### The descriptor invariant -/

/-- The descriptor invariant speaks of the parameters and the descriptors alone. -/
theorem descInv_of_eq {s t : State} (hp : t.params = s.params) (hb : t.b = s.b) (h : DescInv s) : DescInv t := by
  simpa only [DescInv, descsInRange, descsDisjoint, getB, hp, hb] using h

theorem descInv_of_invalid {s : State} (h : ∀ i, (getB s i).valid = false) : DescInv s :=
  ⟨fun i hi => by simp [h] at hi, fun i j _ hi => by simp [h] at hi⟩

theorem descInv_setB_emptyDesc {s : State} (h : DescInv s) (d : BReg) : DescInv (setB s d emptyDesc) := by
  obtain ⟨hrange, hdisj⟩ := h
  have hvalid : ∀ j, (getB (setB s d emptyDesc) j).valid = true →
      (getB s j).valid = true ∧ getB (setB s d emptyDesc) j = getB s j := by
    intro j hj
    rw [getB_setB] at hj ⊢
    split at hj
    · cases hj
    next hne => exact ⟨hj, if_neg hne⟩
  refine ⟨fun i hi => ?_, fun i j hij hi hj => ?_⟩
  · obtain ⟨hv, he⟩ := hvalid i hi
    exact he ▸ hrange i hv
  · obtain ⟨hvi, hei⟩ := hvalid i hi
    obtain ⟨hvj, hej⟩ := hvalid j hj
    exact hei ▸ hej ▸ hdisj i j hij hvi hvj

/-- BCFG's condition (44_block.md R260): a nonempty range inside ROWMEM, apart from every other valid descriptor. -/
theorem blockPlaceable_iff {s : State} {d : BReg} {base n : Nat} :
    blockPlaceable s d base n = true ↔ 1 ≤ n ∧ base + n ≤ s.params.rowmemRows ∧
      ∀ j, j ≠ d → (getB s j).valid = true →
        base + n ≤ (getB s j).base.toNat ∨ (getB s j).base.toNat + (getB s j).rnum.toNat ≤ base := by
  simp only [blockPlaceable, Bool.and_eq_true, decide_eq_true_eq, List.all_eq_true, Bool.or_eq_true, and_assoc]
  refine and_congr_right fun _ => and_congr_right fun _ => forall_congr' fun j => ?_
  by_cases hj : j = d <;> cases hv : (getB s j).valid <;> simp [hj]

/-- The descriptor BCFG stores holds the base and the count in full: both are below 2^31 (00_scope.md R7). -/
theorem bcfg_desc_toNat {P : Params} {base n : Word} (h : base.toNat + n.toNat ≤ P.rowmemRows) :
    (base.extractLsb' 0 32).toNat = base.toNat ∧ (n.extractLsb' 0 31).toNat = n.toNat := by
  obtain ⟨⟨-, hmax⟩, -⟩ := P.legal
  simp only [BitVec.extractLsb'_toNat, Nat.shiftRight_zero]
  omega

/-- Setting a descriptor to a placeable range keeps the invariant. -/
theorem descInv_setB_placeable {s : State} (h : DescInv s) {d : BReg} {v : Desc}
    (hp : blockPlaceable s d v.base.toNat v.rnum.toNat = true) : DescInv (setB s d v) := by
  obtain ⟨hrange, hdisj⟩ := h
  obtain ⟨hn, hin, hapart⟩ := blockPlaceable_iff.mp hp
  refine ⟨fun i hi => ?_, fun i j hij hi hj => ?_⟩
  · by_cases hd : d = i
    · subst hd
      simpa using ⟨hn, hin⟩
    · rw [getB_setB_ne s hd] at hi ⊢
      exact hrange i hi
  · by_cases hdi : d = i
    · subst hdi
      rw [getB_setB_ne s hij] at hj ⊢
      simpa using hapart j hij.symm hj
    · rw [getB_setB_ne s hdi] at hi ⊢
      by_cases hdj : d = j
      · subst hdj
        simpa using (hapart i hij hi).symm
      · rw [getB_setB_ne s hdj] at hj ⊢
        exact hdisj i j hij hi hj

/-- Only BCFG and BFREE touch a descriptor, and each keeps the invariant (10_state.md R35, R36). -/
theorem CommandEffect.keeps_descInv {i : Instr} {s u : State} (h : CommandEffect i s u) (hs : DescInv s) :
    DescInv u := by
  cases h with
  | configure hi hp =>
    obtain ⟨-, hin, -⟩ := blockPlaceable_iff.mp hp
    obtain ⟨hbase, hn⟩ := bcfg_desc_toNat hin
    exact descInv_setB_placeable hs (by simpa only [hbase, hn] using hp)
  | configureFails => exact descInv_of_eq rfl rfl (descInv_setB_emptyDesc hs _)
  | release => exact descInv_setB_emptyDesc hs _
  | nop | halt | writeX | writeG | writeM | eliminate => exact descInv_of_eq rfl rfl hs
  | storeRow | storeRows => exact descInv_of_eq (by simp) (by simp) hs

theorem CommandOutcome.keeps_descInv {i : Instr} {s t : State} (h : CommandOutcome i s t) (hs : DescInv s) :
    DescInv t := by
  cases h with
  | fault => exact descInv_of_eq rfl rfl hs
  | complete he => exact descInv_of_eq rfl rfl (he.keeps_descInv hs)

theorem TurnOutcome.keeps_descInv {s t : State} (h : TurnOutcome s t) (hs : DescInv s) : DescInv t := by
  cases h with
  | idle => exact hs
  | fetchFault => exact descInv_of_eq rfl rfl hs
  | command _ h => exact h.keeps_descInv hs
  | host a =>
    obtain ⟨hp, hb, -⟩ := hostAccess_keeps s a
    exact descInv_of_eq hp hb hs
  | reset draw => exact descInv_of_invalid fun i => by rw [getB_applyReset]; rfl

/-- Settles O13: taking the turn off the list leaves the descriptors alone, and every outcome of the turn keeps them
in range and apart. -/
theorem stepKeepsTheDescriptorInvariant : Obligations.StepKeepsTheDescriptorInvariant := by
  intro s t hs h
  obtain ⟨rest, ht⟩ := step_outcome h
  exact ht.keeps_descInv (descInv_of_eq (s := s) rfl rfl hs)

/-! ### The run and fault-code invariants -/

/-- The codes of 60_exceptions.md R340 run from 0x01 to 0x0B. -/
theorem faultCodeByte_bounds (c : FaultCode) : (faultCodeByte c).toNat ≤ 0x0B ∧ faultCodeByte c ≠ 0 := by
  cases c <;> decide

/-- Both invariants speak of STATUS and FAULT_CODE alone: BUSY with FAULT or DONE, or FAULT, must not newly appear. -/
theorem runFaultInv_of_status {s t : State} (hs : RunInv s ∧ FaultInv s) (hc : t.faultCode = s.faultCode)
    (hrun : t.status.busy = true → t.status.fault = false ∧ t.status.done = false)
    (hfault : t.status.fault = true → s.status.fault = true) : RunInv t ∧ FaultInv t := by
  obtain ⟨-, hle, hne⟩ := hs
  exact ⟨hrun, hc ▸ hle, fun h => hc ▸ hne (hfault h)⟩

theorem runFaultInv_of_eq {s t : State} (hs : RunInv s ∧ FaultInv s) (hc : t.faultCode = s.faultCode)
    (hst : t.status = s.status) : RunInv t ∧ FaultInv t :=
  runFaultInv_of_status hs hc (hst ▸ hs.1) (hst ▸ id)

theorem runFaultInv_raiseFault (s : State) (tr : Trap) (insn : Word32) :
    RunInv (raiseFault s tr insn) ∧ FaultInv (raiseFault s tr insn) := by
  obtain ⟨hle, hne⟩ := faultCodeByte_bounds tr.code
  exact ⟨nofun, hle, fun _ => hne⟩

/-- A completing command clears BUSY where it sets DONE, and sets no other of the three bits. -/
theorem CommandEffect.keeps_runFaultInv {i : Instr} {s u : State} (h : CommandEffect i s u)
    (hs : RunInv s ∧ FaultInv s) : RunInv u ∧ FaultInv u := by
  rcases h.status_cases with ⟨-, hst⟩ | ⟨-, hst⟩ | ⟨-, hst⟩
  · exact runFaultInv_of_status hs h.keepsControl.faultCode (by simp [hst]) (by simp [hst])
  · exact runFaultInv_of_status hs h.keepsControl.faultCode (by simpa [hst, RunInv] using hs.1) (by simp [hst])
  · exact runFaultInv_of_eq hs h.keepsControl.faultCode hst

/-- A host access sets BUSY only by a GO, which finds no fault and clears DONE (45_sequencer.md R321). -/
theorem hostAccess_keeps_runFaultInv {s : State} (hs : RunInv s ∧ FaultInv s) (a : HostAccess) :
    RunInv (hostAccess s a) ∧ FaultInv (hostAccess s a) := by
  obtain ⟨-, -, hc⟩ := hostAccess_keeps s a
  generalize ht : hostAccess s a = t at hc ⊢
  cases ht ▸ hostAccess_outcome s a with
  | reads | rejectsRead | rejectsWrite => exact runFaultInv_of_status hs rfl hs.1 id
  | @writes off width v slot =>
    rcases writeSlot_status_cases s off width v slot with ⟨w, hst⟩ | hst | ⟨hf, hst⟩ | hst
    · refine runFaultInv_of_status hs hc (fun hb => ?_) (by simp +contextual [hst, clearStatus])
      obtain ⟨hfault, hdone⟩ := hs.1 (by simpa [hst, clearStatus] using hb)
      simp [hst, clearStatus, hfault, hdone]
    · exact runFaultInv_of_status hs hc (by simpa [hst, RunInv] using hs.1) (by simp [hst])
    · exact runFaultInv_of_status hs hc (by simp [hst, hf]) (by simp [hst])
    · exact runFaultInv_of_eq hs hc hst

theorem CommandOutcome.keeps_runFaultInv {i : Instr} {s t : State} (h : CommandOutcome i s t)
    (hs : RunInv s ∧ FaultInv s) : RunInv t ∧ FaultInv t := by
  cases h with
  | fault => exact runFaultInv_raiseFault _ _ _
  | complete he => exact runFaultInv_of_eq (he.keeps_runFaultInv hs) rfl rfl

theorem TurnOutcome.keeps_runFaultInv {s t : State} (h : TurnOutcome s t) (hs : RunInv s ∧ FaultInv s) :
    RunInv t ∧ FaultInv t := by
  cases h with
  | idle => exact hs
  | fetchFault => exact runFaultInv_raiseFault _ _ _
  | command _ h => exact h.keeps_runFaultInv hs
  | host a => exact hostAccess_keeps_runFaultInv hs a
  | reset draw => exact ⟨nofun, Nat.zero_le _, nofun⟩

/-- Settles O15: taking the turn off the list leaves STATUS and FAULT_CODE alone, and every outcome of the turn keeps
both invariants. -/
theorem stepKeepsTheRunAndFaultInvariant : Obligations.StepKeepsTheRunAndFaultInvariant := by
  intro s t hr hf h
  obtain ⟨rest, ht⟩ := step_outcome h
  exact ht.keeps_runFaultInv (runFaultInv_of_eq (s := s) ⟨hr, hf⟩ rfl rfl)

/-- Settles O1: after reset no descriptor is valid, no byte is listed, and STATUS and FAULT_CODE are 0. -/
theorem resetIsAGoodState : Obligations.ResetIsAGoodState :=
  ⟨descInv_of_invalid fun i => by rw [getB_reset]; rfl, ⟨rfl, rfl⟩, nofun, Nat.zero_le _, nofun⟩

/-! ### Progress -/

/-- The checks of a block command in order (44_block.md R262 to R280); `exec_eq_blockCommand` ties them to `exec`. -/
def blockChecks (s : State) : Instr → List (Option Trap)
  | .bgetr _ a b => [checkDesc s a, checkRow s a (getX s b)]
  | .bputr d a _ => [checkDesc s d, checkRow s d (getX s a)]
  | .bat _ a b c => [checkDesc s a, checkRow s a (getX s b), checkIndex (getX s c)]
  | .bsetat d a b c => [checkDesc s d, checkRow s d (getX s a), checkIndex (getX s b), checkElem (getX s c)]
  | .bzero d | .brand d => [checkDesc s d]
  | .bgram _ a | .bzcm _ a | .bnzcm _ a => [checkDesc s a]
  | .bzcms _ a b c => [checkDesc s a, checkList s a (getX s b) (getX s c)]
  | .bcopy d a | .bfma d a _ | .bfmad d a _ _ | .bdfma d a _ _ | .bmix d a _ | .badd d a =>
    [checkDesc s d, checkDesc s a, checkDims s d a]
  | _ => []

/-- A command that names block matrices is a block command over them. -/
theorem exec_eq_blockCommand {i : Instr} (h : namedBlocks i ≠ []) (s : State) :
    ∃ effect, exec i s = blockCommand i s (namedBlocks i) (blockChecks s i) effect := by
  unfold exec
  cases i with
  | bgetr | bputr | bat | bsetat | bzero | brand | bcopy | bgram | bzcm | bnzcm | bzcms | bfma | bfmad | bdfma | bmix
  | badd => exact ⟨_, rfl⟩
  | _ => exact absurd rfl h

/-- Every other command answers in every state. -/
theorem exec_answers_of_no_block {i : Instr} (h : namedBlocks i = []) (s : State) : ∃ t, exec i s = .next t := by
  unfold exec
  cases i with
  | bgetr | bputr | bat | bsetat | bzero | brand | bcopy | bgram | bzcm | bnzcm | bzcms | bfma | bfmad | bdfma | bmix
  | badd => cases h
  | _ => exact command_answers _ s _ _

/-- A block command checks every descriptor it names (44_block.md R262). -/
theorem checkDesc_mem_blockChecks {i : Instr} {k : BReg} (hk : k ∈ namedBlocks i) (s : State) :
    checkDesc s k ∈ blockChecks s i := by
  cases i with
  | bgetr | bputr | bat | bsetat | bzero | brand | bgram | bzcm | bnzcm | bzcms =>
    obtain rfl := List.mem_singleton.mp hk
    exact List.mem_cons_self
  | bcopy | bfma | bfmad | bdfma | bmix | badd =>
    obtain rfl | rfl : k = _ ∨ k = _ := by simpa [namedBlocks] using hk
    · exact List.mem_cons_self
    · exact List.mem_cons_of_mem _ List.mem_cons_self
  | _ => cases hk

/-- A command answers where the valid descriptors it names lie inside ROWMEM (10_state.md R36). -/
theorem exec_answers {i : Instr} {s : State}
    (h : ∀ k ∈ namedBlocks i, (getB s k).valid = true → base s k + rnum s k ≤ s.params.rowmemRows) :
    ∃ t, exec i s = .next t := by
  by_cases hn : namedBlocks i = []
  · exact exec_answers_of_no_block hn s
  · obtain ⟨effect, he⟩ := exec_eq_blockCommand hn s
    rw [he]
    refine blockCommand_answers _ _ _ _ _ fun hc k hk => descFits_iff.mpr (h k hk ?_)
    exact checkDesc_eq_none_iff.mp (firstTrap_eq_none_iff.mp hc _ (checkDesc_mem_blockChecks hk s))

theorem sequencerStep_answers {s : State} (h : descsInRange s) : ∃ t, sequencerStep s = .next t := by
  cases hb : s.status.busy with
  | false => exact ⟨s, sequencerStep_idle hb⟩
  | true =>
    cases hf : fetch s with
    | ok i =>
      rw [sequencerStep_of_ok hb hf]
      exact exec_answers fun k _ hv => (h k hv).2
    | error e => exact ⟨_, sequencerStep_of_error hb hf⟩

/-- Settles O16: a turn of the host or of RESET always answers, and a turn of the sequencer does since the command it runs
finds its descriptors in range. -/
theorem stepAlwaysAnswersInRange : Obligations.StepAlwaysAnswersInRange := by
  intro s h
  cases hi : s.inputs with
  | nil => exact step_of_nil hi ▸ sequencerStep_answers h
  | cons turn rest =>
    cases turn with
    | sequencer => exact step_of_sequencer hi ▸ sequencerStep_answers h
    | host a => exact ⟨_, step_of_host hi⟩
    | reset draw => exact ⟨_, step_of_reset hi⟩

/-! ### Where the model stops -/

/-- A block command that names rows past ROWMEM and passes its checks stops. -/
theorem exec_stops {i : Instr} {s : State} {k : BReg} (hk : k ∈ namedBlocks i)
    (hout : s.params.rowmemRows < base s k + rnum s k) (hn : firstTrap (blockChecks s i) = none) :
    exec i s = .fault .rowOutsideMemory := by
  obtain ⟨effect, he⟩ := exec_eq_blockCommand (List.ne_nil_of_mem hk) s
  have hfit : ¬ (namedBlocks i).all (descFits s) = true := fun hall =>
    Nat.not_le.mpr hout (descFits_iff.mp (List.all_eq_true.mp hall k hk))
  simp [he, blockCommand, hn, hfit]

theorem exec_faults {i : Instr} {s : State} {tr : Trap} (h : namedBlocks i ≠ [])
    (ht : firstTrap (blockChecks s i) = some tr) : faults i s (faultCodeByte tr.code) tr.info := by
  obtain ⟨effect, he⟩ := exec_eq_blockCommand h s
  exact he.trans (blockCommand_of_some ht)

/-- The commands of a list stop where each names the matrix k, which runs past ROWMEM, and passes its checks. -/
theorem forall_exec_stops {l : List Instr} {s : State} {k : BReg} (hout : s.params.rowmemRows < base s k + rnum s k)
    (h : ∀ i ∈ l, k ∈ namedBlocks i ∧ firstTrap (blockChecks s i) = none) :
    ∀ i ∈ l, exec i s = .fault .rowOutsideMemory :=
  fun i hi => exec_stops (h i hi).1 hout (h i hi).2

/-- A row-subset list passes where its window fits and every entry of the window is a row (44_block.md R275). -/
theorem checkList_eq_none {s : State} {k : BReg} {start count : Word}
    (hw : start.toNat + count.toNat ≤ s.params.idxEntries)
    (he : ∀ n < count.toNat, (idxRead s (start.toNat + n)).toNat < rnum s k) : checkList s k start count = none := by
  refine checkList_eq_none_iff.mpr ⟨hw, fun e hmem => ?_⟩
  obtain ⟨n, hn, rfl⟩ := List.mem_map.mp hmem
  have hlt := he n (List.mem_range.mp hn)
  rw [BitVec.toNat_setWidth]
  exact Nat.lt_of_le_of_lt (Nat.mod_le _ _) hlt

/-- Settles O53: the progress clause is `exec_answers`; a command that names rows past ROWMEM faults by its first failing
check and stops where it has none, which the listed operands guarantee. -/
theorem rowsOutsideMemoryStopTheModel : Obligations.RowsOutsideMemoryStopTheModel := by
  intro s
  refine ⟨fun i => exec_answers, fun i k hk _ hout => ?_, fun k a m g x y z w hv hout => ?_⟩
  · cases hc : firstTrap (blockChecks s i) with
    | none => exact .inl (exec_stops hk hout hc)
    | some tr => exact .inr ⟨_, _, exec_faults (List.ne_nil_of_mem hk) hc⟩
  · have hdesc := checkDesc_eq_none_iff.mpr hv
    refine ⟨forall_exec_stops hout ?_, fun hy => forall_exec_stops hout ?_, fun hy hz => ?_, fun hy hz hw => ?_,
      fun hwin hrows => ?_, fun ha hdim => forall_exec_stops hout ?_⟩
    · simp [namedBlocks, blockChecks, hdesc]
    · simp [namedBlocks, blockChecks, hdesc, checkRow_eq_none_iff.mpr hy]
    · exact exec_stops List.mem_cons_self hout
        (by simp [blockChecks, hdesc, checkRow_eq_none_iff.mpr hy, checkIndex_eq_none_iff.mpr hz])
    · exact exec_stops List.mem_cons_self hout
        (by simp [blockChecks, hdesc, checkRow_eq_none_iff.mpr hy, checkIndex_eq_none_iff.mpr hz,
          checkElem_eq_none_iff.mpr hw])
    · exact exec_stops List.mem_cons_self hout (by simp [blockChecks, hdesc, checkList_eq_none hwin hrows])
    · simp [namedBlocks, blockChecks, hdesc, checkDesc_eq_none_iff.mpr ha, checkDims_eq_none_iff.mpr hdim,
        checkDims_eq_none_iff.mpr hdim.symm]

end Sys2Proof.Proofs
end

section
/-! ## The host port: the halves of a slot, and the control registers (20_memory.md R74, 10_state.md R38 to R49)

A 4-byte write is said once as the half of the slot it replaces (`mergeWrite_low`, `mergeWrite_high`). The control
registers are then read and written slot by slot. -/

namespace Sys2Proof.Proofs

open Sys2Proof.Machine Sys2Proof.Claims

/-! ### The half of a slot that a 4-byte access moves -/

theorem writeMask_low {off : Nat} (h : off % 8 = 0) : writeMask off 4 = 0#32 ++ BitVec.allOnes 32 := by
  simp [writeMask, h]

theorem writeMask_high {off : Nat} (h : off % 8 ≠ 0) : writeMask off 4 = BitVec.allOnes 32 ++ 0#32 := by
  simp [writeMask, h]

theorem writeBits_low {off : Nat} (h : off % 8 = 0) (v : Word) : writeBits off 4 v = 0#32 ++ v.extractLsb' 0 32 := by
  simp only [writeBits, h, if_true, BitVec.setWidth_eq_append (show 32 ≤ 64 by decide)]
  rfl

theorem writeBits_high {off : Nat} (h : off % 8 ≠ 0) (v : Word) : writeBits off 4 v = v.extractLsb' 0 32 ++ 0#32 := by
  rw [writeBits, if_neg (by decide), if_neg h]
  simpa using (BitVec.setWidth_append_eq_shiftLeft_setWidth_or (w'' := 64) (b := v.extractLsb' 0 32) (b' := 0#32)).symm

/-- A 4-byte write at +0 replaces bits 31:0 (20_memory.md R74). -/
theorem mergeWrite_low {off : Nat} (h : off % 8 = 0) (old v : Word) :
    mergeWrite old off 4 v = old.extractLsb' 32 32 ++ v.extractLsb' 0 32 := by
  rw [mergeWrite, writeMask_low h, writeBits_low h]
  conv_lhs => rw [← word_of_halves old]
  rw [BitVec.not_append, BitVec.and_append, BitVec.or_append]
  simp only [BitVec.not_zero, BitVec.not_allOnes, BitVec.and_allOnes, BitVec.and_zero, BitVec.or_zero, BitVec.zero_or]

/-- A 4-byte write at +4 replaces bits 63:32 (20_memory.md R74). -/
theorem mergeWrite_high {off : Nat} (h : off % 8 ≠ 0) (old v : Word) :
    mergeWrite old off 4 v = v.extractLsb' 0 32 ++ old.extractLsb' 0 32 := by
  rw [mergeWrite, writeMask_high h, writeBits_high h]
  conv_lhs => rw [← word_of_halves old]
  rw [BitVec.not_append, BitVec.and_append, BitVec.or_append]
  simp only [BitVec.not_zero, BitVec.not_allOnes, BitVec.and_allOnes, BitVec.and_zero, BitVec.or_zero, BitVec.zero_or]

theorem slotPart_low {off : Nat} (h : off % 8 = 0) (v : Word) : slotPart v off 4 = (v.extractLsb' 0 32).setWidth 64 := by
  rw [slotPart, if_neg (by decide), if_pos h]

theorem slotPart_high {off : Nat} (h : off % 8 ≠ 0) (v : Word) :
    slotPart v off 4 = (v.extractLsb' 32 32).setWidth 64 := by
  rw [slotPart, if_neg (by decide), if_neg h]

/-- The halves of a written slot: the one reached is the value's low half, the other the old one. -/
theorem extractLsb'_mergeWrite_low {off width : Nat} (hw : width = 4 ∨ width = 8) (h : off % 8 = 0) (old v : Word) :
    (mergeWrite old off width v).extractLsb' 0 32 = v.extractLsb' 0 32 := by
  rcases hw with rfl | rfl
  · rw [mergeWrite_low h, BitVec.extractLsb'_append_eq_right]
  · rw [mergeWrite_whole]

theorem extractLsb'_mergeWrite_high {off : Nat} (h : off % 8 ≠ 0) (old v : Word) :
    (mergeWrite old off 4 v).extractLsb' 0 32 = old.extractLsb' 0 32 := by
  rw [mergeWrite_high h, BitVec.extractLsb'_append_eq_right]

/-- A word's bits 31:0 are those of its low half. -/
theorem getLsbD_of_extractLsb'_eq {v w : Word} (h : v.extractLsb' 0 32 = w.extractLsb' 0 32) {k : Nat} (hk : k < 32) :
    v.getLsbD k = w.getLsbD k := by
  simpa [hk] using congrArg (BitVec.getLsbD · k) h

/-- What a write sends to the low half of a slot: the value's low half, or nothing where it goes to the upper half. -/
theorem extractLsb'_writeBits_low {off width : Nat} (hw : width = 4 ∨ width = 8) (h : off % 8 = 0) (v : Word) :
    (writeBits off width v).extractLsb' 0 32 = v.extractLsb' 0 32 := by
  rcases hw with rfl | rfl
  · rw [writeBits_low h, BitVec.extractLsb'_append_eq_right]
  · rfl

theorem extractLsb'_writeBits_high {off : Nat} (h : off % 8 ≠ 0) (v : Word) :
    (writeBits off 4 v).extractLsb' 0 32 = (0 : Word).extractLsb' 0 32 := by
  rw [writeBits_high h, BitVec.extractLsb'_append_eq_right]
  rfl

/-! ### Accesses that the port lets through -/

theorem wellPlaced_iff {off width : Nat} :
    wellPlaced off width = true ↔ (width = 4 ∨ width = 8) ∧ off % width = 0 ∧ off < 0x2000000 := by
  simp [wellPlaced, Config.windowBytes, and_assoc]

/-- A well-placed read that the port lets through, busy or not (20_memory.md R75). -/
theorem hostAccess_read_of {s : State} {off width : Nat} {slot : Slot} (hp : wellPlaced off width = true)
    (hs : slotAt s.params off width = some slot) (hb : s.status.busy = false ∨ readableBusy slot = true) :
    hostAccess s (.read off width) = { s with readData := readSlot s off width slot } := by
  have hgo : (wellPlaced off width && (!s.status.busy || readableBusy slot)) = true := by simpa [hp] using hb
  simp [hostAccess, hostRead, hs, hgo]

/-- A well-placed write that the port lets through, busy or not (20_memory.md R75, R77). -/
theorem hostAccess_write_of {s : State} {off width : Nat} {slot : Slot} (v : Word) (hp : wellPlaced off width = true)
    (hs : slotAt s.params off width = some slot) (hr : readOnly slot = false)
    (hb : s.status.busy = false ∨ writableBusy slot = true) :
    hostAccess s (.write off width v) = writeSlot s off width v slot := by
  have hgo : (wellPlaced off width && !readOnly slot && (!s.status.busy || writableBusy slot)) = true := by
    simpa [hp, hr] using hb
  simp [hostAccess, hostWrite, hs, hgo]

/-! ### What the host reads of the control registers -/

theorem slotAt_control {P : Params} {off width : Nat} (h : off < 0x100) : slotAt P off width = controlSlot (off / 8) := by
  rw [slotAt, if_pos h]

theorem toNat_append_eq_add {n m : Nat} (x : BitVec n) (y : BitVec m) : (x ++ y).toNat = x.toNat * 2 ^ m + y.toNat := by
  rw [BitVec.toNat_append, ← Nat.shiftLeft_add_eq_or_of_lt y.isLt, Nat.shiftLeft_eq]

/-- PARAM holds its three fields in full (10_state.md R39; 00_scope.md R7). -/
theorem paramWord_toNat (P : Params) :
    (paramWord P).toNat = P.rowmemRows + P.cmdWords * 2 ^ 32 + P.idxEntries * 2 ^ 48 := by
  obtain ⟨⟨-, hrow⟩, ⟨-, hidx⟩, -, hcmd⟩ := P.legal
  simp only [paramWord, toNat_append_eq_add, BitVec.toNat_ofNat]
  omega

theorem statusWord_toNat (t : Status) :
    (statusWord t).toNat =
      bitAt t.busy 0 + bitAt t.done 1 + bitAt t.fault 2 + bitAt t.allocfail 3 + bitAt t.herr 4 := by
  obtain ⟨busy, done, fault, allocfail, herr⟩ := t
  revert busy done fault allocfail herr
  decide

theorem irqEnWord_toNat (e : IrqEn) :
    (irqEnWord e).toNat = bitAt e.done 1 + bitAt e.fault 2 + bitAt e.allocfail 3 + bitAt e.herr 4 := by
  obtain ⟨done, fault, allocfail, herr⟩ := e
  revert done fault allocfail herr
  decide

theorem descWord_toNat (d : Desc) : (descWord d).toNat = descNumber d := by
  simp only [descWord, descNumber, toNat_append_eq_add, BitVec.toNat_ofBool, bitAt]
  cases d.valid <;> simp <;> omega

theorem setWidth_extractLsb'_low (v : Word) :
    (v.extractLsb' 0 32).setWidth 64 = BitVec.ofNat 64 (v.toNat % 2 ^ 32) :=
  BitVec.eq_of_toNat_eq (by simp)

theorem setWidth_extractLsb'_high (v : Word) :
    (v.extractLsb' 32 32).setWidth 64 = BitVec.ofNat 64 (v.toNat / 2 ^ 32) := by
  refine BitVec.eq_of_toNat_eq ?_
  simp only [BitVec.toNat_setWidth, BitVec.extractLsb'_toNat, BitVec.toNat_ofNat, Nat.shiftRight_eq_div_pow]
  omega

/-- The slot of a control register: where it stands and the number it holds (10_state.md R38 to R49). -/
structure ControlRegister (s : State) (off value : Nat) (slot : Slot) : Prop where
  aligned : off % 8 = 0
  isSlot : controlSlot (off / 8) = some slot
  word : (slotWord s slot).toNat = value
  busy : off < 0x028 → readableBusy slot = true

theorem controlSlot_lt {k : Nat} {slot : Slot} (h : controlSlot k = some slot) : k < 16 := by
  by_contra hk
  obtain ⟨n, rfl⟩ := Nat.exists_eq_add_of_le' (Nat.le_of_not_lt hk)
  cases h

theorem controlSlot_ne_memory (k : Nat) : controlSlot k ≠ some .memory := by
  unfold controlSlot
  split <;> simp

/-- Every row of the table is the slot the address map names there (20_memory.md R72). -/
theorem controlRegisters_slots (s : State) : ∀ p ∈ controlRegisters s, ∃ slot, ControlRegister s p.1 p.2 slot := by
  simp only [controlRegisters, List.forall_mem_cons]
  refine ⟨⟨.idReg, rfl, rfl, rfl, by decide⟩, ⟨.paramReg, rfl, rfl, paramWord_toNat _, by decide⟩,
    ⟨.ctrl, rfl, rfl, rfl, by decide⟩, ⟨.statusReg, rfl, rfl, statusWord_toNat _, by decide⟩,
    ⟨.irqEnReg, rfl, rfl, irqEnWord_toNat _, by decide⟩,
    ⟨.cpcReg, rfl, rfl, BitVec.toNat_setWidth_of_le (by decide), by decide⟩,
    ⟨.faultCodeReg, rfl, rfl, BitVec.toNat_setWidth_of_le (by decide), by decide⟩,
    ⟨.faultPcReg, rfl, rfl, BitVec.toNat_setWidth_of_le (by decide), by decide⟩,
    ⟨.faultInsnReg, rfl, rfl, BitVec.toNat_setWidth_of_le (by decide), by decide⟩,
    ⟨.faultInfoReg, rfl, rfl, rfl, by decide⟩, ⟨.retiredReg, rfl, rfl, rfl, by decide⟩,
    ⟨.descReg 0, rfl, rfl, descWord_toNat _, by decide⟩, ⟨.descReg 1, rfl, rfl, descWord_toNat _, by decide⟩,
    ⟨.descReg 2, rfl, rfl, descWord_toNat _, by decide⟩, ⟨.descReg 3, rfl, rfl, descWord_toNat _, by decide⟩, nofun⟩

theorem readSlot_of_ne_memory {s : State} {slot : Slot} (h : slot ≠ .memory) (off width : Nat) :
    readSlot s off width slot = slotPart (slotWord s slot) off width := by
  cases slot with
  | memory => exact absurd rfl h
  | _ => rfl

/-- A well-placed read within a control register's slot answers that part of it. -/
theorem ControlRegister.read {s : State} {off value : Nat} {slot : Slot} (h : ControlRegister s off value slot)
    (hb : s.status.busy = false ∨ off < 0x028) {k width : Nat} (hk : k < 8)
    (hp : wellPlaced (off + k) width = true) :
    hostAccess s (.read (off + k) width) = { s with readData := slotPart (slotWord s slot) (off + k) width } := by
  have hlt := controlSlot_lt h.isSlot
  have haligned := h.aligned
  have hs : slotAt s.params (off + k) width = some slot := by
    rw [slotAt_control (by omega), show (off + k) / 8 = off / 8 by omega, h.isSlot]
  rw [hostAccess_read_of hp hs (hb.imp_right h.busy),
    readSlot_of_ne_memory fun hm => controlSlot_ne_memory _ (hm ▸ h.isSlot)]

/-! ### What the host writes of the control registers -/

theorem clearStatus_congr {t : Status} {v w : Word} (h : v.extractLsb' 0 32 = w.extractLsb' 0 32) :
    clearStatus t v = clearStatus t w := by
  simp only [clearStatus, getLsbD_of_extractLsb'_eq h (show 1 < 32 by decide),
    getLsbD_of_extractLsb'_eq h (show 2 < 32 by decide), getLsbD_of_extractLsb'_eq h (show 3 < 32 by decide),
    getLsbD_of_extractLsb'_eq h (show 4 < 32 by decide)]

theorem irqEnOfWord_congr {v w : Word} (h : v.extractLsb' 0 32 = w.extractLsb' 0 32) :
    irqEnOfWord v = irqEnOfWord w := by
  simp only [irqEnOfWord, getLsbD_of_extractLsb'_eq h (show 1 < 32 by decide),
    getLsbD_of_extractLsb'_eq h (show 2 < 32 by decide), getLsbD_of_extractLsb'_eq h (show 3 < 32 by decide),
    getLsbD_of_extractLsb'_eq h (show 4 < 32 by decide)]

theorem clearStatus_zero (t : Status) : clearStatus t 0 = t := by
  simp [clearStatus]

theorem irqEnOfWord_irqEnWord (e : IrqEn) : irqEnOfWord (irqEnWord e) = e := by
  obtain ⟨done, fault, allocfail, herr⟩ := e
  revert done fault allocfail herr
  decide

section ControlWrites

variable {s : State} {off width : Nat}

theorem write_statusReg (hs : controlSlot (off / 8) = some .statusReg) (hp : wellPlaced off width = true) (v : Word) :
    hostAccess s (.write off width v) = { s with status := clearStatus s.status (writeBits off width v) } :=
  have hlt := controlSlot_lt hs
  hostAccess_write_of v hp ((slotAt_control (by omega)).trans hs) rfl (.inr rfl)

theorem write_irqEnReg (hs : controlSlot (off / 8) = some .irqEnReg) (hp : wellPlaced off width = true) (v : Word) :
    hostAccess s (.write off width v) =
      { s with irqEn := irqEnOfWord (mergeWrite (irqEnWord s.irqEn) off width v) } :=
  have hlt := controlSlot_lt hs
  hostAccess_write_of v hp ((slotAt_control (by omega)).trans hs) rfl (.inr rfl)

theorem write_cpcReg (hs : controlSlot (off / 8) = some .cpcReg) (hp : wellPlaced off width = true)
    (hb : s.status.busy = false) (v : Word) :
    hostAccess s (.write off width v) =
      { s with cpc := (mergeWrite (s.cpc.setWidth 64) off width v).extractLsb' 0 32 } :=
  have hlt := controlSlot_lt hs
  hostAccess_write_of v hp ((slotAt_control (by omega)).trans hs) rfl (.inl hb)

/-- A write of CTRL that does not bring a 1 to bit 0 is no GO and has no effect (10_state.md R40). -/
theorem write_ctrl_of_not_go (hs : controlSlot (off / 8) = some .ctrl) (hp : wellPlaced off width = true)
    (hb : s.status.busy = false) {v : Word} (hv : (writeBits off width v).getLsbD 0 = false) :
    hostAccess s (.write off width v) = s := by
  have hlt := controlSlot_lt hs
  rw [hostAccess_write_of v hp ((slotAt_control (by omega)).trans hs) rfl (.inl hb)]
  rw [writeSlot, hv, if_neg (by decide)]

end ControlWrites

/-- Settles O58: a read answers the number its slot holds, whole or by halves; the four writable registers depend on the
low half of what the write sends. -/
theorem controlRegisterReadsAndWrites : Obligations.ControlRegisterReadsAndWrites := by
  intro s
  refine ⟨fun p hp hb => ?_, fun width v hw => ?_, fun v => ?_⟩
  · obtain ⟨slot, h⟩ := controlRegisters_slots s p hp
    have hlt := controlSlot_lt h.isSlot
    have haligned := h.aligned
    refine ⟨?_, ?_, ?_⟩
    · refine (h.read hb (k := 0) (by decide) (wellPlaced_iff.mpr (by omega))).trans ?_
      rw [Nat.add_zero, slotPart_whole, ← h.word, BitVec.ofNat_toNat, BitVec.setWidth_eq]
    · refine (h.read hb (k := 0) (by decide) (wellPlaced_iff.mpr (by omega))).trans ?_
      rw [Nat.add_zero, slotPart_low haligned, setWidth_extractLsb'_low, h.word]
    · rw [h.read hb (k := 4) (by decide) (wellPlaced_iff.mpr (by omega)), slotPart_high (by omega),
        setWidth_extractLsb'_high, h.word]
  · have hp : ∀ off, off % 8 = 0 → off < 0x100 → wellPlaced off width = true := fun off _ _ =>
      wellPlaced_iff.mpr (by rcases hw with rfl | rfl <;> omega)
    refine ⟨?_, ?_, fun hb hv => ?_, fun hb => ?_⟩
    · rw [write_statusReg rfl (hp _ rfl (by decide)), clearStatus_congr (extractLsb'_writeBits_low hw rfl v)]
      rfl
    · rw [write_irqEnReg rfl (hp _ rfl (by decide)), irqEnOfWord_congr (extractLsb'_mergeWrite_low hw rfl _ v)]
      rfl
    · refine write_ctrl_of_not_go rfl (hp _ rfl (by decide)) hb ?_
      rw [getLsbD_of_extractLsb'_eq (extractLsb'_writeBits_low hw rfl v) (by decide), hv]
    · rw [write_cpcReg rfl (hp _ rfl (by decide)) hb, extractLsb'_mergeWrite_low hw rfl]
  · refine ⟨?_, ?_, fun hb => ⟨?_, ?_⟩⟩
    · rw [write_statusReg rfl rfl, clearStatus_congr (extractLsb'_writeBits_high (by decide) v), clearStatus_zero]
    · rw [write_irqEnReg rfl rfl, irqEnOfWord_congr (extractLsb'_mergeWrite_high (by decide) _ v),
        irqEnOfWord_irqEnWord]
    · refine write_ctrl_of_not_go rfl rfl hb ?_
      rw [getLsbD_of_extractLsb'_eq (extractLsb'_writeBits_high (by decide) v) (by decide)]
      rfl
    · rw [write_cpcReg rfl rfl hb, extractLsb'_mergeWrite_high (by decide),
        BitVec.extractLsb'_setWidth_of_le (by decide), BitVec.extractLsb'_eq_self]

end Sys2Proof.Proofs
end

section
/-! ## The plain slots: X, G, M and the memories (20_memory.md R71, R72, R74, R79)

An access of a plain offset reaches one slot of X, G or M (`RegisterAt`) or bytes of the memories; `PlainAccess` says
which. What an idle unit answers to a read, and what a write stores and leaves, is said once for each of the two. -/

namespace Sys2Proof.Proofs

open Sys2Proof.Machine Sys2Proof.Claims

/-! ### Planes -/

theorem planeWord_eq_plane (g : Grp64) (p : Fin 4) : planeWord g p = plane g p := by
  fin_cases p <;> rfl

theorem withPlane_eq_setPlane (g : Grp64) (v : Word) (p : Fin 4) : withPlane g v p = setPlane g p v := by
  fin_cases p <;> rfl

theorem plane_setPlane (g : Grp64) (p q : Fin 4) (v : Word) :
    plane (setPlane g p v) q = if p = q then v else plane g q := by
  fin_cases p <;> fin_cases q <;> rfl

theorem grp_ext_plane {g h : Grp64} (hp : ∀ p, plane g p = plane h p) : g = h := by
  obtain ⟨g0, g1, g2, g3⟩ := g
  obtain ⟨h0, h1, h2, h3⟩ := h
  rw [Grp64.mk.injEq]
  exact ⟨hp 0, hp 1, hp 2, hp 3⟩

/-! ### The slots of X, G and M -/

/-- The window offset of each 64-bit slot of X, G and M (20_memory.md R72). -/
inductive RegisterAt : Nat → Slot → Prop
  | x (n : XReg) : RegisterAt (0x100 + 8 * n.val) (.xSlot n)
  | g (n : GReg) (p : Fin 4) : RegisterAt (0x200 + 32 * n.val + 8 * p.val) (.gSlot n p)
  | m (n : MReg) (r : Fin 64) (p : Fin 4) : RegisterAt (0x10000 + 0x800 * n.val + 32 * r.val + 8 * p.val) (.mSlot n r p)

theorem RegisterAt.bounds {o : Nat} {slot : Slot} (h : RegisterAt o slot) : o % 8 = 0 ∧ o < 0x14000 := by
  cases h <;> omega

theorem RegisterAt.offset_unique {o o' : Nat} {slot : Slot} (h : RegisterAt o slot) (h' : RegisterAt o' slot) :
    o = o' := by
  cases h <;> cases h' <;> rfl

theorem RegisterAt.ne_memory {o : Nat} {slot : Slot} (h : RegisterAt o slot) : slot ≠ .memory := by
  rintro rfl
  cases h

/-- Below the memories the slot depends on the slot number alone (20_memory.md R72). -/
theorem slotAt_eq_slotAt_start (P : Params) {o : Nat} (h : o < 0x14000) (width : Nat) :
    slotAt P o width = slotAt P (8 * (o / 8)) width := by
  simp only [slotAt, show 8 * (o / 8) / 8 = o / 8 by omega, show 8 * (o / 8) < 0x100 ↔ o < 0x100 by omega,
    show 8 * (o / 8) < 0x180 ↔ o < 0x180 by omega, show 8 * (o / 8) < 0x200 ↔ o < 0x200 by omega,
    show 8 * (o / 8) < 0x400 ↔ o < 0x400 by omega, show 8 * (o / 8) < 0x10000 ↔ o < 0x10000 by omega,
    show 8 * (o / 8) < 0x14000 by omega, h, if_true, show (8 * (o / 8) - 0x100) / 8 = (o - 0x100) / 8 by omega,
    show (8 * (o / 8) - 0x200) / 8 = (o - 0x200) / 8 by omega,
    show (8 * (o / 8) - 0x200) / 32 = (o - 0x200) / 32 by omega,
    show (8 * (o / 8) - 0x10000) / 8 = (o - 0x10000) / 8 by omega,
    show (8 * (o / 8) - 0x10000) / 32 = (o - 0x10000) / 32 by omega,
    show (8 * (o / 8) - 0x10000) / 0x800 = (o - 0x10000) / 0x800 by omega]

/-- Every offset within a slot reaches it. -/
theorem RegisterAt.slotAt {o off : Nat} {slot : Slot} (h : RegisterAt o slot) (P : Params) (hlo : o ≤ off)
    (hhi : off < o + 8) (width : Nat) : slotAt P off width = some slot := by
  obtain ⟨halign, hlt⟩ := h.bounds
  rw [slotAt_eq_slotAt_start P (by omega), show 8 * (off / 8) = o by omega]
  cases h with
  | x n => exact slotAt_x P n width
  | g n p => exact slotAt_g P n p width
  | m n r p => exact slotAt_m P n r p width

/-- A plain offset below the memories lies in a slot of X, G or M. -/
theorem registerAt_of_plainOffset {P : Params} {off : Nat} (h : plainOffset P off) (hlt : off < 0x14000) :
    ∃ o slot, RegisterAt o slot ∧ o = 8 * (off / 8) := by
  unfold plainOffset at h
  have hregion : (0x100 ≤ off ∧ off < 0x180) ∨ (0x200 ≤ off ∧ off < 0x400) ∨ (0x10000 ≤ off ∧ off < 0x14000) := by omega
  rcases hregion with h | h | h
  · exact ⟨_, _, .x ⟨(off - 0x100) / 8, by omega⟩, by dsimp only; omega⟩
  · exact ⟨_, _, .g ⟨(off - 0x200) / 32, by omega⟩ ⟨off / 8 % 4, by omega⟩, by dsimp only; omega⟩
  · exact ⟨_, _, .m ⟨(off - 0x10000) / 0x800, by omega⟩ ⟨off / 32 % 64, by omega⟩ ⟨off / 8 % 4, by omega⟩,
      by dsimp only; omega⟩

/-- A slot of X, G or M after a write of one of them. -/
theorem slotWord_writeSlot {o o' : Nat} {slot slot' : Slot} (h : RegisterAt o slot) (h' : RegisterAt o' slot') (s : State)
    (off width : Nat) (v : Word) :
    slotWord (writeSlot s off width v slot) slot' =
      if slot = slot' then mergeWrite (slotWord s slot) off width v else slotWord s slot' := by
  cases h with
  | x n =>
    cases h' with
    | x n' => simp [slotWord, writeSlot, getX_setX]
    | _ => rfl
  | g n p =>
    cases h' with
    | g n' p' =>
      simp only [slotWord, writeSlot, getG_setG, Slot.gSlot.injEq]
      by_cases hn : n = n'
      · subst hn
        simp [plane_setPlane]
      · simp [hn]
    | _ => rfl
  | m n r p =>
    cases h' with
    | m n' r' p' =>
      simp only [slotWord, writeSlot, getM_setM, Slot.mSlot.injEq]
      by_cases hn : n = n'
      · subst hn
        by_cases hr : r = r'
        · subst hr
          simp [plane_setPlane]
        · simp [hr, Fin.val_ne_of_ne hr]
      · simp [hn]
    | _ => rfl

/-! ### Plain accesses -/

/-- What an access of a plain offset reaches: part of one slot of X, G or M, or bytes of the memories that exist. -/
inductive Reaches (P : Params) (off width : Nat) : Slot → Prop
  | register {o : Nat} {slot : Slot} (hr : RegisterAt o slot) (hlo : o ≤ off) (hhi : off + width ≤ o + 8) :
      Reaches P off width slot
  | memory (hm : ∀ k < width, mappedByte P (off + k) = true) : Reaches P off width .memory

/-- A well-shaped access of a plain offset (20_memory.md R73, R79). -/
structure PlainAccess (P : Params) (off width : Nat) (slot : Slot) : Prop where
  width_eq : width = 4 ∨ width = 8
  aligned : off % width = 0
  reaches : Reaches P off width slot

/-- Every byte of an aligned access exists where its last does: each memory starts at a multiple of 8 (20_memory.md
R72). -/
theorem mappedByte_of_memoryOffset {P : Params} {off width : Nat} (hw : width = 4 ∨ width = 8) (ha : off % width = 0)
    (hlast : memoryOffset P (off + width - 1)) :
    ∀ k < width, mappedByte P (off + k) = true := by
  intro k hk
  obtain ⟨⟨-, hrow⟩, ⟨-, hidx⟩, -, hcmd⟩ := P.legal
  unfold memoryOffset at hlast
  rw [mappedByte_iff]
  rcases hw with rfl | rfl <;> omega

theorem plainAccess_memory {P : Params} {off width : Nat} (hw : width = 4 ∨ width = 8) (ha : off % width = 0)
    (hlast : memoryOffset P (off + width - 1)) : PlainAccess P off width .memory :=
  ⟨hw, ha, .memory (mappedByte_of_memoryOffset hw ha hlast)⟩

theorem plainAccess_of_plainOffset {P : Params} {off width : Nat} (hw : width = 4 ∨ width = 8) (ha : off % width = 0)
    (hfirst : plainOffset P off) (hlast : plainOffset P (off + width - 1)) : ∃ slot, PlainAccess P off width slot := by
  by_cases hlt : off < 0x14000
  · obtain ⟨o, slot, hr, ho⟩ := registerAt_of_plainOffset hfirst hlt
    exact ⟨slot, hw, ha, .register hr (by omega) (by rcases hw with rfl | rfl <;> omega)⟩
  · refine ⟨_, plainAccess_memory hw ha ?_⟩
    unfold plainOffset at hlast
    unfold memoryOffset
    omega

/-- A 4-byte access needs its first byte alone. -/
theorem plainAccess_four {P : Params} {off : Nat} (ha : off % 4 = 0) (h : plainOffset P off) :
    ∃ slot, PlainAccess P off 4 slot := by
  refine plainAccess_of_plainOffset (.inl rfl) ha h ?_
  unfold plainOffset at h ⊢
  omega

theorem PlainAccess.slotAt {P : Params} {off width : Nat} {slot : Slot} (h : PlainAccess P off width slot) :
    slotAt P off width = some slot := by
  have hpos : 0 < width := by rcases h.width_eq with rfl | rfl <;> decide
  cases h.reaches with
  | register hr hlo hhi => exact hr.slotAt P hlo (by omega) width
  | memory hm => exact slotAt_memory hpos hm

theorem PlainAccess.wellPlaced {P : Params} {off width : Nat} {slot : Slot} (h : PlainAccess P off width slot) :
    wellPlaced off width = true := by
  obtain ⟨hw, ha, hreach⟩ := h
  refine wellPlaced_iff.mpr ⟨hw, ha, ?_⟩
  cases hreach with
  | register hr hlo hhi =>
    obtain ⟨-, hlt⟩ := hr.bounds
    omega
  | memory hm =>
    obtain ⟨⟨-, hrow⟩, ⟨-, hidx⟩, -, hcmd⟩ := P.legal
    have h0 := mappedByte_iff.mp (hm 0 (by omega))
    omega

/-- The halves of an 8-byte access. -/
theorem PlainAccess.half {P : Params} {off : Nat} {slot : Slot} (h : PlainAccess P off 8 slot) :
    PlainAccess P off 4 slot ∧ PlainAccess P (off + 4) 4 slot := by
  obtain ⟨-, ha, hreach⟩ := h
  refine ⟨⟨.inl rfl, by omega, ?_⟩, ⟨.inl rfl, by omega, ?_⟩⟩
  · cases hreach with
    | register hr hlo hhi => exact .register hr hlo (by omega)
    | memory hm => exact .memory fun k hk => hm k (by omega)
  · cases hreach with
    | register hr hlo hhi => exact .register hr (by omega) (by omega)
    | memory hm => exact .memory fun k hk => Nat.add_assoc off 4 k ▸ hm (4 + k) (by omega)

section Idle

variable {s : State} {off width : Nat} {slot : Slot}

theorem PlainAccess.read (h : PlainAccess s.params off width slot) (hb : s.status.busy = false) :
    hostAccess s (.read off width) = { s with readData := readSlot s off width slot } :=
  hostAccess_read_idle hb h.wellPlaced h.slotAt

theorem PlainAccess.readData (h : PlainAccess s.params off width slot) (hb : s.status.busy = false) :
    (hostAccess s (.read off width)).readData = readSlot s off width slot :=
  congrArg State.readData (h.read hb)

theorem PlainAccess.write (h : PlainAccess s.params off width slot) (hb : s.status.busy = false) (v : Word) :
    hostAccess s (.write off width v) = writeSlot s off width v slot := by
  refine hostAccess_write_idle v hb h.wellPlaced h.slotAt ?_
  cases h.reaches with
  | register hr => cases hr <;> rfl
  | memory => rfl

/-- A write of a plain slot changes X, G, M and memory at most. -/
theorem PlainAccess.write_frame {P : Params} (h : PlainAccess P off width slot) (s : State) (v : Word) :
    ∃ x g m mem, writeSlot s off width v slot = { s with x := x, g := g, m := m, mem := mem } := by
  cases h.reaches with
  | register hr => cases hr <;> exact ⟨_, _, _, _, rfl⟩
  | memory => exact ⟨_, _, _, _, rfl⟩

/-- After a write of a plain slot every plain access is answered from the written state. -/
theorem PlainAccess.readData_write {off' width' : Nat} {slot' : Slot} (h : PlainAccess s.params off width slot)
    (h' : PlainAccess s.params off' width' slot') (hb : s.status.busy = false) (v : Word) :
    (hostAccess (hostAccess s (.write off width v)) (.read off' width')).readData =
      readSlot (writeSlot s off width v slot) off' width' slot' := by
  obtain ⟨x, g, m, mem, hw⟩ := h.write_frame s v
  rw [h.write hb, hw]
  exact PlainAccess.readData (s := { s with x := x, g := g, m := m, mem := mem }) h' hb

end Idle

/-! ### A write reads back -/

theorem slotPart_mergeWrite_self {off width : Nat} (hw : width = 4 ∨ width = 8) (old v : Word) :
    slotPart (mergeWrite old off width v) off width = slotPart v 0 width := by
  rcases hw with rfl | rfl
  · by_cases h : off % 8 = 0
    · rw [slotPart_low h, slotPart_low rfl, mergeWrite_low h, BitVec.extractLsb'_append_eq_right]
    · rw [slotPart_high h, slotPart_low rfl, mergeWrite_high h, BitVec.extractLsb'_append_eq_left]
  · rw [mergeWrite_whole, slotPart_whole, slotPart_whole]

/-- What a write stores in a plain slot is what a read of the same access answers. -/
theorem PlainAccess.readSlot_writeSlot_self {P : Params} {off width : Nat} {slot : Slot} {s : State}
    (h : PlainAccess P off width slot) (hm : memWf s.mem = true) (v : Word) :
    readSlot (writeSlot s off width v slot) off width slot = slotPart v 0 width := by
  obtain ⟨hw, -, hreach⟩ := h
  cases hreach with
  | register hr =>
    rw [readSlot_of_ne_memory hr.ne_memory, slotWord_writeSlot hr hr, if_pos rfl, slotPart_mergeWrite_self hw]
  | memory =>
    rcases hw with rfl | rfl
    · simp [readSlot, writeSlot, memLoad32_memStore32_self hm, slotPart]
    · simp [readSlot, writeSlot, memLoad64_memStore64_self hm, slotPart]

/-- A 4-byte read of half a slot answers that half of the 8-byte read (20_memory.md R74). -/
theorem PlainAccess.readSlot_half {P : Params} {off : Nat} {slot : Slot} (h : PlainAccess P off 8 slot) (s : State) :
    readSlot s off 4 slot = slotPart (readSlot s off 8 slot) 0 4 ∧
      readSlot s (off + 4) 4 slot = slotPart (readSlot s off 8 slot) 4 4 := by
  obtain ⟨-, ha, hreach⟩ := h
  rw [slotPart_low rfl, slotPart_high (by decide)]
  cases hreach with
  | register hr =>
    simp only [readSlot_of_ne_memory hr.ne_memory, slotPart_low ha, slotPart_whole,
      slotPart_high (show (off + 4) % 8 ≠ 0 by omega), and_self]
  | memory =>
    simp only [readSlot, memLoad64, if_true, BitVec.extractLsb'_append_eq_left, BitVec.extractLsb'_append_eq_right]
    exact ⟨rfl, rfl⟩

/-! ### A write leaves every other location -/

theorem slotPart_mergeWrite_other {off o : Nat} (h : off % 8 = 0 ↔ o % 8 ≠ 0) (old v : Word) :
    slotPart (mergeWrite old off 4 v) o 4 = slotPart old o 4 := by
  by_cases ho : o % 8 = 0
  · rw [slotPart_low ho, slotPart_low ho, mergeWrite_high (by tauto), BitVec.extractLsb'_append_eq_right]
  · rw [slotPart_high ho, slotPart_high ho, mergeWrite_low (h.mpr ho), BitVec.extractLsb'_append_eq_left]

theorem memLoad32_memStore64_ne (m : Memory) {a b : Nat} (h : b + 4 ≤ a ∨ a + 8 ≤ b) (v : Word) :
    memLoad32 (memStore64 m a v) b = memLoad32 m b := by
  rw [memStore64, memLoad32_memStore32_ne _ (by omega), memLoad32_memStore32_ne _ (by omega)]

/-- A write of a plain slot leaves every 32-bit location outside the bytes it reaches, the other half of its slot
included. -/
theorem PlainAccess.readSlot_writeSlot_other {P : Params} {off o width : Nat} {slot slot' : Slot}
    (h : PlainAccess P off width slot) (h' : PlainAccess P o 4 slot') (hd : o + 4 ≤ off ∨ off + width ≤ o) (s : State)
    (v : Word) : readSlot (writeSlot s off width v slot) o 4 slot' = readSlot s o 4 slot' := by
  obtain ⟨hw, ha, hreach⟩ := h
  obtain ⟨-, ha', hreach'⟩ := h'
  cases hreach with
  | register hr hlo hhi =>
    cases hreach' with
    | register hr' hlo' hhi' =>
      rw [readSlot_of_ne_memory hr'.ne_memory, readSlot_of_ne_memory hr'.ne_memory, slotWord_writeSlot hr hr']
      split
      next he =>
        subst he
        obtain rfl := hr.offset_unique hr'
        obtain ⟨hbase, -⟩ := hr.bounds
        rcases hw with rfl | rfl
        · exact slotPart_mergeWrite_other (by omega) _ _
        · omega
      next => rfl
    | memory => cases hr <;> rfl
  | memory =>
    cases hreach' with
    | register hr' => cases hr' <;> rfl
    | memory =>
      rcases hw with rfl | rfl
      · simp [readSlot, writeSlot, memLoad32_memStore32_ne _ hd]
      · simp [readSlot, writeSlot, memLoad32_memStore64_ne _ hd]

theorem PlainAccess.memByte_writeSlot_other {P : Params} {off width a : Nat} {slot : Slot}
    (h : PlainAccess P off width slot) (hd : a < off ∨ off + width ≤ a) (s : State) (v : Word) :
    memByte (writeSlot s off width v slot).mem a = memByte s.mem a := by
  obtain ⟨hw, -, hreach⟩ := h
  cases hreach with
  | register hr => cases hr <;> rfl
  | memory =>
    rcases hw with rfl | rfl
    · simp [writeSlot, memByte_memStore32_ne _ hd]
    · simp [writeSlot, memByte_memStore64_ne _ hd]

/-! ### The bytes of a memory access -/

theorem extractLsb'_memLoad32 (m : Memory) (a : Nat) {k : Nat} (hk : k < 4) :
    (memLoad32 m a).extractLsb' (8 * k) 8 = memByte m (a + k) := by
  unfold memLoad32
  interval_cases k
  · exact BitVec.extractLsb'_append_eq_right
  · rw [BitVec.extractLsb'_append_eq_of_le (by decide)]
    exact BitVec.extractLsb'_append_eq_right
  · rw [BitVec.extractLsb'_append_eq_of_le (by decide), BitVec.extractLsb'_append_eq_of_le (by decide)]
    exact BitVec.extractLsb'_append_eq_right
  · rw [BitVec.extractLsb'_append_eq_of_le (by decide), BitVec.extractLsb'_append_eq_of_le (by decide)]
    exact BitVec.extractLsb'_append_eq_left

theorem extractLsb'_memLoad64 (m : Memory) (a : Nat) {k : Nat} (hk : k < 8) :
    (memLoad64 m a).extractLsb' (8 * k) 8 = memByte m (a + k) := by
  by_cases h : k < 4
  · rw [memLoad64, BitVec.extractLsb'_append_eq_of_add_le (by omega), extractLsb'_memLoad32 m a h]
  · rw [memLoad64, BitVec.extractLsb'_append_eq_of_le (by omega), show 8 * k - 32 = 8 * (k - 4) by omega,
      extractLsb'_memLoad32 m (a + 4) (by omega), show a + 4 + (k - 4) = a + k by omega]

/-- Byte k of what a memory read answers is the byte at the offset plus k, little-endian (20_memory.md R74). -/
theorem extractLsb'_readSlot_memory (s : State) (off : Nat) {width k : Nat} (hw : width = 4 ∨ width = 8) (hk : k < width) :
    (readSlot s off width .memory).extractLsb' (8 * k) 8 = memByte s.mem (off + k) := by
  rcases hw with rfl | rfl
  · exact (BitVec.extractLsb'_setWidth_of_le (by omega)).trans (extractLsb'_memLoad32 _ _ hk)
  · exact extractLsb'_memLoad64 _ _ hk

theorem extractLsb'_slotPart (v : Word) {width k : Nat} (hw : width = 4 ∨ width = 8) (hk : k < width) :
    (slotPart v 0 width).extractLsb' (8 * k) 8 = v.extractLsb' (8 * k) 8 := by
  rcases hw with rfl | rfl
  · rw [slotPart_low rfl, BitVec.extractLsb'_setWidth_of_le (by omega)]
    rw [← BitVec.setWidth_eq_extractLsb' (by decide), BitVec.extractLsb'_setWidth_of_le (by omega)]
  · rfl

/-! ### Rows and words of the memories -/

theorem plane_rowLoad (m : Memory) (r : Nat) (p : Fin 4) :
    plane (rowLoad m r) p = memLoad64 m (rowOffset r + 8 * p.val) := by
  fin_cases p <;> rfl

/-- Storing the slot of plane p of row r replaces that plane of that row (20_memory.md R71). -/
theorem rowLoad_memStore64 {m : Memory} (hm : memWf m = true) (r : Nat) (p : Fin 4) (v : Word) (q : Nat) :
    rowLoad (memStore64 m (rowOffset r + 8 * p.val) v) q = if q = r then setPlane (rowLoad m r) p v else rowLoad m q := by
  refine grp_ext_plane fun j => ?_
  rw [plane_rowLoad]
  split
  next hq =>
    subst hq
    rw [plane_setPlane]
    split
    next hp => rw [← hp, memLoad64_memStore64_self hm]
    next hp =>
      have hne := Fin.val_ne_of_ne hp
      rw [memLoad64_memStore64_ne _ (by omega), plane_rowLoad]
  next hq =>
    unfold rowOffset
    rw [memLoad64_memStore64_ne _ (by omega), plane_rowLoad, rowOffset]

/-- Storing 32-bit word k of a region replaces that word alone. -/
theorem memLoad32_memStore32_word {m : Memory} (hm : memWf m = true) (start k j : Nat) (w : Word32) :
    memLoad32 (memStore32 m (start + 4 * k) w) (start + 4 * j) =
      if j = k then w else memLoad32 m (start + 4 * j) := by
  split
  next h => rw [h, memLoad32_memStore32_self hm]
  next h => rw [memLoad32_memStore32_ne _ (by omega)]

/-! ### The obligation, clause by clause -/

section Clauses

variable {s : State} (hb : s.status.busy = false)
include hb

/-- Half reads of a slot (20_memory.md R74). -/
theorem idle_half_reads {off : Nat} {slot : Slot} (h : PlainAccess s.params off 8 slot) :
    (hostAccess s (.read off 4)).readData = ((hostAccess s (.read off 8)).readData.extractLsb' 0 32).setWidth 64 ∧
      (hostAccess s (.read (off + 4) 4)).readData =
        ((hostAccess s (.read off 8)).readData.extractLsb' 32 32).setWidth 64 := by
  obtain ⟨hlow, hhigh⟩ := h.half
  obtain ⟨h4, h4'⟩ := h.readSlot_half s
  rw [hlow.readData hb, hhigh.readData hb, h.readData hb]
  exact ⟨h4, h4'⟩

/-- A write reads back by the same access. -/
theorem idle_write_reads_back {off width : Nat} {slot : Slot} (h : PlainAccess s.params off width slot)
    (hm : memWf s.mem = true) (v : Word) :
    (hostAccess (hostAccess s (.write off width v)) (.read off width)).readData = slotPart v 0 width :=
  (h.readData_write h hb v).trans (h.readSlot_writeSlot_self hm v)

/-- An 8-byte write reads back whole and by halves. -/
theorem idle_write8_reads_back {off : Nat} {slot : Slot} (h : PlainAccess s.params off 8 slot) (hm : memWf s.mem = true)
    (v : Word) :
    (hostAccess (hostAccess s (.write off 8 v)) (.read off 8)).readData = v ∧
      (hostAccess (hostAccess s (.write off 8 v)) (.read off 4)).readData = (v.extractLsb' 0 32).setWidth 64 ∧
      (hostAccess (hostAccess s (.write off 8 v)) (.read (off + 4) 4)).readData =
        (v.extractLsb' 32 32).setWidth 64 := by
  obtain ⟨hlow, hhigh⟩ := h.half
  obtain ⟨h4, h4'⟩ := h.readSlot_half (writeSlot s off 8 v slot)
  have hself := h.readSlot_writeSlot_self hm v
  rw [h.readData_write h hb, h.readData_write hlow hb, h.readData_write hhigh hb, h4, h4', hself]
  exact ⟨rfl, rfl, rfl⟩

/-- What a plain access leaves alone. -/
theorem idle_access_frame {off width : Nat} {slot : Slot} (h : PlainAccess s.params off width slot) (v : Word) :
    (∃ x g m mem, hostAccess s (.write off width v) = { s with x := x, g := g, m := m, mem := mem }) ∧
      (∀ o, o % 4 = 0 → plainOffset s.params o → (o + 4 ≤ off ∨ off + width ≤ o) →
        (hostAccess (hostAccess s (.write off width v)) (.read o 4)).readData =
          (hostAccess s (.read o 4)).readData) ∧
      (∀ a, (a < off ∨ off + width ≤ a) → memByte (hostAccess s (.write off width v)).mem a = memByte s.mem a) ∧
      (∃ data, hostAccess s (.read off width) = { s with readData := data }) := by
  refine ⟨h.write hb v ▸ h.write_frame s v, fun o ha ho hd => ?_, fun a hd => ?_, ⟨_, h.read hb⟩⟩
  · obtain ⟨slot', h'⟩ := plainAccess_four ha ho
    rw [h.readData_write h' hb, h'.readData hb, h.readSlot_writeSlot_other h' hd]
  · rw [h.write hb, h.memByte_writeSlot_other hd]

/-- An 8-byte access at a slot's offset is that slot's whole word. -/
theorem idle_register_access {o : Nat} {slot : Slot} (hr : RegisterAt o slot) (v : Word) :
    hostAccess s (.read o 8) = { s with readData := slotWord s slot } ∧
      hostAccess s (.write o 8 v) = writeSlot s o 8 v slot := by
  obtain ⟨halign, -⟩ := hr.bounds
  have h : PlainAccess s.params o 8 slot := ⟨.inr rfl, halign, .register hr le_rfl le_rfl⟩
  rw [h.read hb, h.write hb, readSlot_of_ne_memory hr.ne_memory, slotPart_whole]
  exact ⟨rfl, rfl⟩

theorem idle_row_access {r : Nat} (hr : r < s.params.rowmemRows) (p : Fin 4) (v : Word) :
    hostAccess s (.read (0x1000000 + 32 * r + 8 * p.val) 8) = { s with readData := planeWord (rowLoad s.mem r) p } ∧
      (memWf s.mem = true → ∀ q,
        rowLoad (hostAccess s (.write (0x1000000 + 32 * r + 8 * p.val) 8 v)).mem q =
          if q = r then withPlane (rowLoad s.mem r) v p else rowLoad s.mem q) := by
  have hrow : rowOffset r = 0x1000000 + 32 * r := rfl
  have h : PlainAccess s.params (0x1000000 + 32 * r + 8 * p.val) 8 .memory :=
    plainAccess_memory (.inr rfl) (by omega) (by unfold memoryOffset; omega)
  refine ⟨?_, fun hm q => ?_⟩
  · rw [h.read hb, planeWord_eq_plane, plane_rowLoad, hrow, readSlot, if_pos rfl]
  · rw [h.write hb, withPlane_eq_setPlane, ← rowLoad_memStore64 hm r p v q, hrow, writeSlot, if_pos rfl]

/-- A 4-byte access of word k of CMDMEM or IDXMEM. -/
theorem idle_word_access {start k : Nat} (h : PlainAccess s.params (start + 4 * k) 4 .memory) (v : Word) :
    hostAccess s (.read (start + 4 * k) 4) = { s with readData := (memLoad32 s.mem (start + 4 * k)).setWidth 64 } ∧
      (memWf s.mem = true → ∀ j, memLoad32 (hostAccess s (.write (start + 4 * k) 4 v)).mem (start + 4 * j) =
        if j = k then v.extractLsb' 0 32 else memLoad32 s.mem (start + 4 * j)) := by
  refine ⟨h.read hb, fun hm j => ?_⟩
  rw [h.write hb, ← memLoad32_memStore32_word hm]
  rfl

/-- Byte k of a memory access, read and written. -/
theorem idle_memory_bytes {off width k : Nat} (h : PlainAccess s.params off width .memory) (hk : k < width) (v : Word) :
    (hostAccess s (.read off width)).readData.extractLsb' (8 * k) 8 = memByte s.mem (off + k) ∧
      (memWf s.mem = true →
        memByte (hostAccess s (.write off width v)).mem (off + k) = v.extractLsb' (8 * k) 8) := by
  refine ⟨?_, fun hm => ?_⟩
  · rw [h.readData hb, extractLsb'_readSlot_memory s off h.width_eq hk]
  · rw [h.write hb, ← extractLsb'_readSlot_memory _ off h.width_eq hk, h.readSlot_writeSlot_self hm,
      extractLsb'_slotPart v h.width_eq hk]

end Clauses

/-- Settles O57: each plain access is a `PlainAccess`, and each clause is what is said of those. -/
theorem hostReadsBackItsWrites : Obligations.HostReadsBackItsWrites := by
  intro s off v hb
  refine ⟨fun hm ha h0 h7 => ?_, fun hm ha h0 => ?_, fun width hw ha h0 h1 => ?_, fun n => ?_, fun n p => ?_,
    fun n r p => ?_, fun r p hr => idle_row_access hb hr p v, fun k hk => idle_word_access hb ?_ v,
    fun k hk => idle_word_access hb ?_ v, fun width hw ha _ h1 k hk => ?_, fun ha h0 h7 => ?_⟩
  · obtain ⟨slot, h⟩ := plainAccess_of_plainOffset (.inr rfl) ha h0 h7
    exact idle_write8_reads_back hb h hm v
  · obtain ⟨slot, h⟩ := plainAccess_four ha h0
    exact idle_write_reads_back hb h hm v
  · obtain ⟨slot, h⟩ := plainAccess_of_plainOffset hw ha h0 h1
    exact idle_access_frame hb h v
  · obtain ⟨hread, hwrite⟩ := idle_register_access hb (.x n) v
    exact ⟨hread, by rw [hwrite, writeSlot, mergeWrite_whole]; rfl⟩
  · obtain ⟨hread, hwrite⟩ := idle_register_access hb (.g n p) v
    rw [planeWord_eq_plane, withPlane_eq_setPlane]
    exact ⟨hread, by rw [hwrite, writeSlot, mergeWrite_whole]; rfl⟩
  · obtain ⟨hread, hwrite⟩ := idle_register_access hb (.m n r p) v
    rw [planeWord_eq_plane, withPlane_eq_setPlane]
    exact ⟨hread, by rw [hwrite, writeSlot, mergeWrite_whole]; rfl⟩
  · exact plainAccess_memory (.inl rfl) (by omega) (by unfold memoryOffset; omega)
  · exact plainAccess_memory (.inl rfl) (by omega) (by unfold memoryOffset; omega)
  · exact idle_memory_bytes hb (plainAccess_memory hw ha h1) hk v
  · obtain ⟨slot, h⟩ := plainAccess_of_plainOffset (.inr rfl) ha h0 h7
    exact idle_half_reads hb h

end Sys2Proof.Proofs
end

section
/-! ## The memories and the rejections of the host port (20_memory.md R70 to R77)

Memory stays canonical because every store, of a command or of the host, goes to bytes that exist. Which accesses the port
answers is said once (`Answered`), and every other one is rejected (`hostAccess_of_not_answered`); each obligation about
rejections then says of which slot or shape the access is. -/

namespace Sys2Proof.Proofs

open Sys2Proof.Machine Sys2Proof.Claims

/-! ### The memory invariant -/

/-- What a command does to memory: nothing, or a store of rows inside its destination matrix (20_memory.md R70,
44_block.md R282). -/
theorem CommandEffect.mem_cases {i : Instr} {s u : State} (h : CommandEffect i s u) :
    u.mem = s.mem ∨ ∃ d r rows, rowsDest i = some d ∧ blockReady s d ∧ r + rows.length ≤ rnum s d ∧
      u.mem = rowsStore s.mem (base s d + r) rows := by
  cases h with
  | @storeRow d hd hb r hr v => exact .inr ⟨d, r, [v], hd, hb, hr, by simp [rowsStore, base]⟩
  | @storeRows d hd hb rows hl => exact .inr ⟨d, 0, rows, hd, hb, by omega, by simp [base]⟩
  | nop | halt | writeX | writeG | writeM | eliminate | configure | configureFails | release => exact .inl rfl

theorem memInv_of_eq {s t : State} (hp : t.params = s.params) (hm : t.mem = s.mem) (h : MemInv s) : MemInv t := by
  simpa only [MemInv, hp, hm] using h

theorem memInv_rowsStore {s t : State} {r : Nat} {rows : List Grp64} (h : MemInv s) (hp : t.params = s.params)
    (hm : t.mem = rowsStore s.mem r rows) (hr : r + rows.length ≤ s.params.rowmemRows) : MemInv t := by
  obtain ⟨hwf, hmapped⟩ := h
  refine ⟨?_, ?_⟩
  · rw [hm]
    exact rowsStore_wf hwf r rows
  · rw [hm, hp]
    exact rowsStore_mapped hmapped rows hr

/-- A command stores at most in rows that exist, those of a ready block matrix. -/
theorem CommandEffect.keeps_memInv {i : Instr} {s u : State} (h : CommandEffect i s u) (hs : MemInv s) : MemInv u := by
  rcases h.mem_cases with hm | ⟨d, r, rows, -, ⟨-, hfits⟩, hlen, hm⟩
  · exact memInv_of_eq h.keepsControl.params hm hs
  · exact memInv_rowsStore hs h.keepsControl.params hm (by unfold base rnum at *; omega)

theorem CommandOutcome.keeps_memInv {i : Instr} {s t : State} (h : CommandOutcome i s t) (hs : MemInv s) :
    MemInv t := by
  cases h with
  | fault => exact memInv_of_eq rfl rfl hs
  | complete he => exact memInv_of_eq rfl rfl (he.keeps_memInv hs)

/-- An access that reaches the memories reaches only bytes that exist (20_memory.md R72, R76). -/
theorem mappedByte_of_slotAt_memory {P : Params} {off width : Nat} (h : slotAt P off width = some .memory) :
    ∀ k < width, mappedByte P (off + k) = true := by
  unfold slotAt at h
  split_ifs at h with _ _ _ _ _ _ hall
  · exact absurd h (controlSlot_ne_memory _)
  · cases h
  · cases h
  · cases h
  · simpa using hall

/-- Only the slot of the memories stores there. -/
theorem writeSlot_mem {slot : Slot} (h : slot ≠ .memory) (s : State) (off width : Nat) (v : Word) :
    (writeSlot s off width v slot).mem = s.mem := by
  cases slot with
  | memory => exact absurd rfl h
  | ctrl =>
    simp only [writeSlot]
    split
    · rcases go_cases s with hgo | ⟨-, -, hgo⟩ <;> rw [hgo] <;> rfl
    · rfl
  | _ => rfl

/-- A host write of bytes that exist, 4 or 8 of them, keeps the invariant. -/
theorem memInv_writeSlot_memory {s : State} (hs : MemInv s) {off width : Nat} (hw : width = 4 ∨ width = 8)
    (hm : ∀ k < width, mappedByte s.params (off + k) = true) (v : Word) :
    MemInv (writeSlot s off width v .memory) := by
  obtain ⟨hwf, hmapped⟩ := hs
  rcases hw with rfl | rfl
  · exact ⟨memStore32_wf hwf off _, memStore32_mapped hmapped hm _⟩
  · exact ⟨memStore64_wf hwf off v, memStore64_mapped hmapped hm v⟩

theorem hostAccess_keeps_memInv {s : State} (hs : MemInv s) (a : HostAccess) : MemInv (hostAccess s a) := by
  generalize ht : hostAccess s a = t
  cases ht ▸ hostAccess_outcome s a with
  | reads | rejectsRead | rejectsWrite => exact memInv_of_eq rfl rfl hs
  | @writes off width v slot hslot hp _ _ =>
    by_cases hmem : slot = .memory
    · subst hmem
      obtain ⟨hw, -, -⟩ := wellPlaced_iff.mp hp
      exact memInv_writeSlot_memory hs hw (mappedByte_of_slotAt_memory hslot) v
    · obtain ⟨hparams, -, -⟩ := writeSlot_keeps s off width v slot
      exact memInv_of_eq hparams (writeSlot_mem hmem s off width v) hs

theorem TurnOutcome.keeps_memInv {s t : State} (h : TurnOutcome s t) (hs : MemInv s) : MemInv t := by
  cases h with
  | idle => exact hs
  | fetchFault => exact memInv_of_eq rfl rfl hs
  | command _ h => exact h.keeps_memInv hs
  | host a => exact hostAccess_keeps_memInv hs a
  | reset draw => exact ⟨drawMemory_wf _ draw.cells, drawMemory_mapped _ draw.cells⟩

/-- Settles O14: taking the turn off the list leaves memory alone, and every outcome of the turn keeps it canonical and
inside the three memories. -/
theorem stepKeepsTheMemoryInvariant : Obligations.StepKeepsTheMemoryInvariant := by
  intro s t hs h
  obtain ⟨rest, ht⟩ := step_outcome h
  exact ht.keeps_memInv (memInv_of_eq (s := s) rfl rfl hs)

/-! ### Which accesses the port answers -/

/-- The port lets an access through to the slot it reaches (20_memory.md R75, R77). -/
def Permitted (s : State) (slot : Slot) : HostAccess → Prop
  | .read _ _ => s.status.busy = true → readableBusy slot = true
  | .write _ _ _ => readOnly slot = false ∧ (s.status.busy = true → writableBusy slot = true)

/-- The accesses that are not rejected: of a legal shape, to a slot that exists and that they are let through to. -/
def Answered (s : State) (a : HostAccess) : Prop :=
  legalShape a ∧ ∃ slot, slotAt s.params (offsetOf a) (widthOf a) = some slot ∧ Permitted s slot a

/-- Every other access is rejected (60_exceptions.md R347). -/
theorem hostAccess_of_not_answered {s : State} {a : HostAccess} (h : ¬ Answered s a) :
    hostAccess s a = rejected s a := by
  cases a with
  | read off width =>
    simp only [hostAccess, hostRead]
    split
    next slot hslot =>
      refine if_neg fun hgo => h ?_
      obtain ⟨hp, hb⟩ : wellPlaced off width = true ∧ (s.status.busy = false ∨ readableBusy slot = true) := by
        simpa using hgo
      exact ⟨wellPlaced_iff.mp hp, slot, hslot, fun hbusy => hb.resolve_left (by simp [hbusy])⟩
    next => rfl
  | write off width v =>
    simp only [hostAccess, hostWrite]
    split
    next slot hslot =>
      refine if_neg fun hgo => h ?_
      obtain ⟨⟨hp, hr⟩, hb⟩ : (wellPlaced off width = true ∧ readOnly slot = false) ∧
          (s.status.busy = false ∨ writableBusy slot = true) := by simpa using hgo
      exact ⟨wellPlaced_iff.mp hp, slot, hslot, hr, fun hbusy => hb.resolve_left (by simp [hbusy])⟩
    next => rfl

/-- The rights of the control registers, by slot number (20_memory.md R72, R75, R77). -/
theorem controlSlot_rights {k : Nat} {slot : Slot} (h : controlSlot k = some slot) :
    (readOnly slot = true ↔ k < 2 ∨ 6 ≤ k) ∧ (readableBusy slot = true ↔ k < 5) ∧
      (writableBusy slot = true ↔ k = 3 ∨ k = 4) := by
  unfold controlSlot at h
  split at h <;> cases h <;> decide

/-- Past the control registers nothing is reached while BUSY = 1 (20_memory.md R75). -/
theorem slotAt_past_control {P : Params} {off width : Nat} {slot : Slot} (h : slotAt P off width = some slot)
    (hoff : 0x100 ≤ off) : readableBusy slot = false ∧ writableBusy slot = false := by
  rw [slotAt, if_neg (by omega)] at h
  split_ifs at h <;> cases h <;> exact ⟨rfl, rfl⟩

theorem readableBusy_offset {P : Params} {off width : Nat} {slot : Slot} (h : slotAt P off width = some slot)
    (hr : readableBusy slot = true) : off < 0x028 := by
  by_cases hoff : off < 0x100
  · obtain ⟨-, hread, -⟩ := controlSlot_rights (slotAt_control hoff ▸ h)
    have hk := hread.mp hr
    omega
  · obtain ⟨hread, -⟩ := slotAt_past_control h (Nat.le_of_not_lt hoff)
    simp [hread] at hr

theorem writableBusy_offset {P : Params} {off width : Nat} {slot : Slot} (h : slotAt P off width = some slot)
    (hw : writableBusy slot = true) : 0x018 ≤ off ∧ off < 0x028 := by
  by_cases hoff : off < 0x100
  · obtain ⟨-, -, hwrite⟩ := controlSlot_rights (slotAt_control hoff ▸ h)
    have hk := hwrite.mp hw
    omega
  · obtain ⟨-, hwrite⟩ := slotAt_past_control h (Nat.le_of_not_lt hoff)
    simp [hwrite] at hw

theorem readOnly_of_readOnlyOffset {P : Params} {off width : Nat} {slot : Slot} (h : slotAt P off width = some slot)
    (ho : readOnlyOffset off) : readOnly slot = true := by
  unfold readOnlyOffset at ho
  obtain ⟨hro, -, -⟩ := controlSlot_rights (slotAt_control (show off < 0x100 by omega) ▸ h)
  exact hro.mpr (by omega)

/-- ID, PARAM, CTRL, STATUS and IRQ_EN, which may be read while BUSY = 1 (20_memory.md R75). -/
theorem slotAt_readableBusy (P : Params) {off : Nat} (h : off < 0x028) (width : Nat) :
    ∃ slot, slotAt P off width = some slot ∧ readableBusy slot = true := by
  have hslot : ∀ k < 5, ∃ slot, controlSlot k = some slot := by
    intro k hk
    interval_cases k <;> exact ⟨_, rfl⟩
  obtain ⟨slot, hs⟩ := hslot (off / 8) (by omega)
  obtain ⟨-, hread, -⟩ := controlSlot_rights hs
  exact ⟨slot, (slotAt_control (by omega)).trans hs, hread.mpr (by omega)⟩

/-- No slot exists at a reserved offset (20_memory.md R72, R76). -/
theorem slotAt_reserved {P : Params} {off width : Nat} (hw : 0 < width) (h : reservedOffset P off) :
    slotAt P off width = none := by
  obtain ⟨⟨-, hrow⟩, ⟨-, hidx⟩, -, hcmd⟩ := P.legal
  unfold reservedOffset at h
  by_cases hcontrol : off < 0x100
  · have hk : off / 8 = 11 ∨ 16 ≤ off / 8 := by omega
    rw [slotAt_control hcontrol]
    rcases hk with hk | hk
    · rw [hk]
      rfl
    · cases hs : controlSlot (off / 8) with
      | none => rfl
      | some slot => exact absurd (controlSlot_lt hs) (by omega)
  · have hunmapped : ((List.range width).all fun k => mappedByte P (off + k)) = false := by
      refine Bool.eq_false_of_not_eq_true fun hall => ?_
      have h0 := mappedByte_iff.mp (List.all_eq_true.mp hall 0 (List.mem_range.mpr hw))
      omega
    have hregions : (0x180 ≤ off ∧ off < 0x200) ∨ (0x400 ≤ off ∧ off < 0x10000) ∨ 0x14000 ≤ off := by omega
    rw [slotAt, if_neg hcontrol, if_neg (by omega), hunmapped]
    rcases hregions with ⟨-, hlt⟩ | ⟨hge, hlt⟩ | hge
    · rw [if_pos hlt]
    · rw [if_neg (by omega), if_neg (by omega), if_pos hlt]
    · rw [if_neg (by omega), if_neg (by omega), if_neg (by omega), if_neg (by omega), if_neg (by decide)]

/-! ### The obligations -/

/-- Settles O56: an answered access has a legal shape, and its slot exists and is not read-only for a write. -/
theorem illegalAccessesAreRejected : Obligations.IllegalAccessesAreRejected := by
  intro s a
  refine ⟨fun hshape => ?_, fun hres => ?_, fun off w v ha hro => ?_⟩
  · exact hostAccess_of_not_answered fun ⟨hlegal, _⟩ => hshape hlegal
  · refine hostAccess_of_not_answered fun ⟨⟨hw, _⟩, slot, hslot, _⟩ => ?_
    rw [slotAt_reserved (by omega) hres] at hslot
    cases hslot
  · subst ha
    refine hostAccess_of_not_answered fun ⟨_, slot, hslot, hwritable, _⟩ => ?_
    rw [readOnly_of_readOnlyOffset hslot hro] at hwritable
    cases hwritable

/-- Settles O55: an access answered while BUSY = 1 reaches a control register that R75 names; what the writes of STATUS
and IRQ_EN do is said for every state by O58. -/
theorem busyRejectsAllButControlAccesses : Obligations.BusyRejectsAllButControlAccesses := by
  intro s a hb
  obtain ⟨-, hwrites, hupper⟩ := controlRegisterReadsAndWrites s
  refine ⟨fun hread hwrite => hostAccess_of_not_answered fun ⟨_, slot, hslot, hperm⟩ => ?_,
    fun off w ha hshape hoff => ?_, fun w v hw => ?_, fun v => ?_⟩
  · cases a with
    | read off w =>
      have hlow := readableBusy_offset hslot (hperm hb)
      exact absurd (hread off w rfl) (Nat.not_le_of_lt hlow)
    | write off w v =>
      have hrange := writableBusy_offset hslot (hperm.2 hb)
      have hout := hwrite off w v rfl
      simp only [offsetOf] at hrange
      omega
  · subst ha
    obtain ⟨slot, hslot, hr⟩ := slotAt_readableBusy s.params hoff w
    exact ⟨_, hostAccess_read_of (wellPlaced_iff.mpr hshape) hslot (.inr hr)⟩
  · obtain ⟨hstatus, hirq, -⟩ := hwrites w v hw
    exact ⟨by rw [hstatus, hb], hirq⟩
  · obtain ⟨hstatus, hirq, -⟩ := hupper v
    exact ⟨hstatus, hirq⟩

end Sys2Proof.Proofs
end

section
/-! ## The encoding: the decoder and the encoder are inverse (30_encoding.md R101 to R113)

One direction reads the fields of a built word, command by command. The other goes by rows: every row of the opcode map
writes back exactly the fields it reads (`encode_build`), and a word its row admits has no other bit set
(`reencode_of_admits`). -/

namespace Sys2Proof.Proofs

open Sys2Proof.Machine Sys2Proof.Claims

/-! ### The row of a word -/

theorem append_eq_append_iff {n m : Nat} {x x' : BitVec n} {y y' : BitVec m} :
    x ++ y = x' ++ y' ↔ x = x' ∧ y = y' := by
  constructor
  · intro h
    have hx := congrArg (BitVec.extractLsb' m n) h
    have hy := congrArg (BitVec.extractLsb' 0 m) h
    rw [BitVec.extractLsb'_append_eq_left, BitVec.extractLsb'_append_eq_left] at hx
    rw [BitVec.extractLsb'_append_eq_right, BitVec.extractLsb'_append_eq_right] at hy
    exact ⟨hx, hy⟩
  · rintro ⟨rfl, rfl⟩
    rfl

theorem opcodeOf_append (w : Word32) : opcodeOf w ++ w.extractLsb' 0 24 = w := by
  unfold opcodeOf
  rw [BitVec.extractLsb'_append_extractLsb'_eq_extractLsb' (by rfl)]
  exact BitVec.extractLsb'_eq_self

/-- No two rows of the map have one opcode (30_encoding.md R108). -/
theorem opcodes_nodup : (opcodeTable.map Row.opcode).Nodup := by decide

theorem rowOf_eq_some_iff {op : BitVec 8} {r : Row} : rowOf op = some r ↔ r ∈ opcodeTable ∧ r.opcode = op := by
  have found {r' : Row} (h : rowOf op = some r') : r' ∈ opcodeTable ∧ r'.opcode = op :=
    ⟨List.mem_of_find?_eq_some h, by simpa using List.find?_some h⟩
  refine ⟨found, fun ⟨hr, hop⟩ => ?_⟩
  cases h : rowOf op with
  | none => exact absurd hop (by simpa using List.find?_eq_none.mp h r hr)
  | some r' =>
    obtain ⟨hr', hop'⟩ := found h
    rw [List.inj_on_of_nodup_map opcodes_nodup hr' hr (hop'.trans hop.symm)]

theorem rowOf_eq_none_iff {op : BitVec 8} : rowOf op = none ↔ ∀ r ∈ opcodeTable, r.opcode ≠ op := by
  simp [rowOf, List.find?_eq_none]

/-! ### What decoding answers -/

theorem decode_of_no_row {w : Word32} (h : rowOf (opcodeOf w) = none) :
    decode w = .error (.illegalOpcode (opcodeOf w)) := by
  unfold decode; rw [h]

theorem decode_of_row {w : Word32} {r : Row} (h : rowOf (opcodeOf w) = some r) :
    decode w = if r.admits w then .ok (r.build w) else .error (.reservedField (r.offending w)) := by
  unfold decode; rw [h]

theorem decode_of_admits {w : Word32} {r : Row} (h : rowOf (opcodeOf w) = some r) (ha : r.admits w = true) :
    decode w = .ok (r.build w) := by
  rw [decode_of_row h, if_pos ha]

theorem decode_of_not_admits {w : Word32} {r : Row} (h : rowOf (opcodeOf w) = some r) (ha : ¬ r.admits w = true) :
    decode w = .error (.reservedField (r.offending w)) := by
  rw [decode_of_row h, if_neg ha]

/-- A word decodes only through a row that admits it. -/
theorem decode_eq_ok_iff {w : Word32} {i : Instr} :
    decode w = .ok i ↔ ∃ r ∈ opcodeTable, r.opcode = opcodeOf w ∧ r.admits w = true ∧ r.build w = i := by
  constructor
  · intro h
    cases hr : rowOf (opcodeOf w) with
    | none => simp [decode_of_no_row hr] at h
    | some r =>
      obtain ⟨hmem, hop⟩ := rowOf_eq_some_iff.mp hr
      by_cases ha : r.admits w = true
      · exact ⟨r, hmem, hop, ha, by simpa [decode_of_admits hr ha] using h⟩
      · simp [decode_of_not_admits hr ha] at h
  · rintro ⟨r, hmem, hop, ha, rfl⟩
    exact decode_of_admits (rowOf_eq_some_iff.mpr ⟨hmem, hop⟩) ha

/-! ### Decoding a built word -/

section BuiltWords

variable {n : Nat} [NeZero n] (op : BitVec 8) (a b c d : Nat) (k : Fin n) (imm16 : BitVec 16) (h : BitVec 2)

@[simp] theorem fieldD_encR_reg (hn : n ≤ 16) : fieldD (encR op k a b c) = k :=
  Fin.ext (fieldD_encR op k a b c k.isLt hn)

@[simp] theorem fieldA_encR_reg (hn : n ≤ 16) : fieldA (encR op d k b c) = k :=
  Fin.ext (fieldA_encR op d k b c k.isLt hn)

@[simp] theorem fieldB_encR_reg (hn : n ≤ 16) : fieldB (encR op d a k c) = k :=
  Fin.ext (fieldB_encR op d a k c k.isLt hn)

@[simp] theorem fieldC_encR_reg (hn : n ≤ 16) : fieldC (encR op d a b k) = k :=
  Fin.ext (fieldC_encR op d a b k k.isLt hn)

@[simp] theorem fieldD_encI_reg (hn : n ≤ 16) : fieldD (encI op k imm16 h) = k :=
  Fin.ext (fieldD_encI op k imm16 h k.isLt hn)

end BuiltWords

/-- The number fits the class: its field has no must-be-zero bit set (30_encoding.md R104, R105). -/
def FitsClass (cls : FieldClass) (k : Nat) : Prop := regField k &&& cls.mustBeZero = 0

@[simp] theorem fitsClass_unused : FitsClass .unused 0 := regField_unused
@[simp] theorem fitsClass_xReg (k : XReg) : FitsClass .xReg k := regField_xReg k
@[simp] theorem fitsClass_gReg (k : GReg) : FitsClass .gReg k := regField_gReg k
@[simp] theorem fitsClass_mReg (k : MReg) : FitsClass .mReg k := regField_mReg k
@[simp] theorem fitsClass_bReg (k : BReg) : FitsClass .bReg k := regField_bReg k

theorem decode_encN {op : BitVec 8} {build : Word32 → Instr} (hr : rowOf op = some ⟨op, .formatN, build⟩) :
    decode (encN op) = .ok (build (encN op)) :=
  decode_of_admits (by rw [opcodeOf_encN, hr]) (admits_encN op build)

theorem decode_encI {op : BitVec 8} {build : Word32 → Instr} (hr : rowOf op = some ⟨op, .formatI, build⟩) (d : Nat)
    (imm16 : BitVec 16) (h : BitVec 2) : decode (encI op d imm16 h) = .ok (build (encI op d imm16 h)) :=
  decode_of_admits (by rw [opcodeOf_encI, hr]) (admits_encI op build d imm16 h)

theorem decode_encR {op : BitVec 8} {cd ca cb cc : FieldClass} {build : Word32 → Instr} {d a b c : Nat}
    (hr : rowOf op = some ⟨op, .formatR cd ca cb cc, build⟩) (hd : FitsClass cd d) (ha : FitsClass ca a)
    (hb : FitsClass cb b) (hc : FitsClass cc c) : decode (encR op d a b c) = .ok (build (encR op d a b c)) :=
  decode_of_admits (by rw [opcodeOf_encR, hr]) (admits_encR op cd ca cb cc build d a b c hd ha hb hc)

/-- Settles O3: the row of the opcode admits the built word, and each field gives back the operand it was built from. -/
theorem decodeAfterEncodeIsTheInstruction : Obligations.DecodeAfterEncodeIsTheInstruction := by
  intro i
  cases i with
  | nop | halt => exact (decode_encN rfl).trans rfl
  | xli d imm16 h | xins d imm16 h => exact (decode_encI rfl d imm16 h).trans (by simp [fieldImm_encI, fieldH_encI])
  | _ => exact (decode_encR rfl (by simp) (by simp) (by simp) (by simp)).trans (by simp)

/-! ### The bits of a word its row admits -/

theorem admits_iff {r : Row} {w : Word32} : r.admits w = true ↔ w &&& r.mask = r.pattern := by
  unfold Row.admits; exact beq_iff_eq

theorem wordR_parts (w : Word32) :
    opcodeOf w ++ w.extractLsb' 20 4 ++ w.extractLsb' 16 4 ++ w.extractLsb' 12 4 ++ w.extractLsb' 8 4 ++
      w.extractLsb' 0 8 = w := by
  unfold opcodeOf
  iterate 5 rw [BitVec.extractLsb'_append_extractLsb'_eq_extractLsb' (by rfl)]
  exact BitVec.extractLsb'_eq_self

theorem wordI_parts (w : Word32) :
    opcodeOf w ++ w.extractLsb' 20 4 ++ w.extractLsb' 18 2 ++ fieldH w ++ fieldImm w = w := by
  unfold opcodeOf fieldH fieldImm
  iterate 4 rw [BitVec.extractLsb'_append_extractLsb'_eq_extractLsb' (by rfl)]
  exact BitVec.extractLsb'_eq_self

/-- The masked parts of format R are those of a bare opcode when each part is on its own. -/
theorem and_partsR_eq_iff {o op : BitVec 8} {d a b c md ma mb mc : BitVec 4} {low : BitVec 8} :
    (o ++ d ++ a ++ b ++ c ++ low) &&& (BitVec.allOnes 8 ++ md ++ ma ++ mb ++ mc ++ BitVec.allOnes 8) =
        op ++ 0#4 ++ 0#4 ++ 0#4 ++ 0#4 ++ 0#8 ↔
      o = op ∧ d &&& md = 0#4 ∧ a &&& ma = 0#4 ∧ b &&& mb = 0#4 ∧ c &&& mc = 0#4 ∧ low = 0#8 := by
  simp only [BitVec.and_append, BitVec.and_allOnes, append_eq_append_iff, and_assoc]

theorem and_partsI_eq_iff {o op : BitVec 8} {d : BitVec 4} {z h : BitVec 2} {imm16 : BitVec 16} :
    (o ++ d ++ z ++ h ++ imm16) &&& (BitVec.allOnes 8 ++ 0#4 ++ BitVec.allOnes 2 ++ 0#2 ++ 0#16) =
        op ++ 0#4 ++ 0#2 ++ 0#2 ++ 0#16 ↔
      o = op ∧ z = 0#2 := by
  simp only [BitVec.and_append, BitVec.and_allOnes, BitVec.and_zero, append_eq_append_iff, and_true]

/-- A word of format R is admitted when its opcode is the row's and no must-be-zero bit is set (30_encoding.md R102,
R105). -/
theorem admits_formatR_iff {op : BitVec 8} {cd ca cb cc : FieldClass} {build : Word32 → Instr} {w : Word32} :
    Row.admits ⟨op, .formatR cd ca cb cc, build⟩ w = true ↔ opcodeOf w = op ∧
      w.extractLsb' 20 4 &&& cd.mustBeZero = 0#4 ∧ w.extractLsb' 16 4 &&& ca.mustBeZero = 0#4 ∧
      w.extractLsb' 12 4 &&& cb.mustBeZero = 0#4 ∧ w.extractLsb' 8 4 &&& cc.mustBeZero = 0#4 ∧
      w.extractLsb' 0 8 = 0#8 := by
  have hmask : Row.mask ⟨op, .formatR cd ca cb cc, build⟩ = BitVec.allOnes 8 ++ cd.mustBeZero ++ ca.mustBeZero ++
      cb.mustBeZero ++ cc.mustBeZero ++ BitVec.allOnes 8 := append_nestR _ _ _ _ _ _
  have hpattern : Row.pattern ⟨op, .formatR cd ca cb cc, build⟩ = op ++ 0#4 ++ 0#4 ++ 0#4 ++ 0#4 ++ 0#8 :=
    append_nestR op 0 0 0 0 0
  rw [admits_iff, hmask, hpattern]
  conv_lhs => rw [← wordR_parts w]
  exact and_partsR_eq_iff

/-- A word of format I is admitted when its opcode is the row's and bits 19:18 are 0 (30_encoding.md R103, R105). -/
theorem admits_formatI_iff {op : BitVec 8} {build : Word32 → Instr} {w : Word32} :
    Row.admits ⟨op, .formatI, build⟩ w = true ↔ opcodeOf w = op ∧ w.extractLsb' 18 2 = 0#2 := by
  have hmask : Row.mask ⟨op, .formatI, build⟩ = BitVec.allOnes 8 ++ 0#4 ++ BitVec.allOnes 2 ++ 0#2 ++ 0#16 :=
    append_nestI 0xFF 0 3 0 0
  have hpattern : Row.pattern ⟨op, .formatI, build⟩ = op ++ 0#4 ++ 0#2 ++ 0#2 ++ 0#16 := append_nestI op 0 0 0 0
  rw [admits_iff, hmask, hpattern]
  conv_lhs => rw [← wordI_parts w]
  exact and_partsI_eq_iff

/-- A word of format N is admitted when it is its opcode and nothing else (30_encoding.md R101, R105). -/
theorem admits_formatN_iff {op : BitVec 8} {build : Word32 → Instr} {w : Word32} :
    Row.admits ⟨op, .formatN, build⟩ w = true ↔ w = encN op := by
  have hmask : Row.mask ⟨op, .formatN, build⟩ = BitVec.allOnes 32 :=
    show (0xFF : BitVec 8) ++ (0xFFFFFF : BitVec 24) = BitVec.allOnes 32 by decide
  have hpattern : Row.pattern ⟨op, .formatN, build⟩ = encN op := rfl
  rw [admits_iff, hmask, hpattern, BitVec.and_allOnes]

/-! ### Writing back the fields a row reads -/

/-- The register number a field of the class reads; an unused field reads none and is written as 0 (30_encoding.md R104,
R105). -/
def fieldNumber : FieldClass → BitVec 4 → Nat
  | .unused, _ => 0
  | .xReg, v => (Fin.ofNat 16 v.toNat).val
  | .gReg, v => (Fin.ofNat 16 v.toNat).val
  | .mReg, v => (Fin.ofNat 8 v.toNat).val
  | .bReg, v => (Fin.ofNat 4 v.toNat).val

/-- A field with no must-be-zero bit set is written back as it was read. -/
theorem regField_fieldNumber {cls : FieldClass} {v : BitVec 4} (h : v &&& cls.mustBeZero = 0) :
    regField (fieldNumber cls v) = v := by
  cases cls <;> revert v <;> decide

/-- The word built again from the fields that the row reads of w. -/
def reencode (r : Row) (w : Word32) : Word32 :=
  match r.layout with
  | .formatN => encN r.opcode
  | .formatR cd ca cb cc =>
    encR r.opcode (fieldNumber cd (w.extractLsb' 20 4)) (fieldNumber ca (w.extractLsb' 16 4))
      (fieldNumber cb (w.extractLsb' 12 4)) (fieldNumber cc (w.extractLsb' 8 4))
  | .formatI => encI r.opcode (fieldNumber .xReg (w.extractLsb' 20 4)) (fieldImm w) (fieldH w)

/-- Every row of the map builds an instruction whose word has the row's opcode and the fields the row reads. -/
theorem encode_build {r : Row} (hr : r ∈ opcodeTable) (w : Word32) : encode (r.build w) = reencode r w := by
  fin_cases hr <;> rfl

/-- The fields read hold every bit that the match and mask columns leave free (30_encoding.md R105). -/
theorem reencode_of_admits {r : Row} {w : Word32} (h : r.admits w = true) : reencode r w = w := by
  obtain ⟨op, layout, build⟩ := r
  cases layout with
  | formatN => exact (admits_formatN_iff.mp h).symm
  | formatR cd ca cb cc =>
    obtain ⟨hop, hd, ha, hb, hc, hlow⟩ := admits_formatR_iff.mp h
    conv_rhs => rw [← wordR_parts w, hop, hlow]
    simp only [reencode, encR, regField_fieldNumber hd, regField_fieldNumber ha, regField_fieldNumber hb,
      regField_fieldNumber hc, BitVec.ofNat_eq_ofNat]
  | formatI =>
    obtain ⟨hop, hzero⟩ := admits_formatI_iff.mp h
    conv_rhs => rw [← wordI_parts w, hop, hzero]
    simp only [reencode, encI, regField_fieldNumber (cls := .xReg) BitVec.and_zero, BitVec.ofNat_eq_ofNat]

/-- Settles O4: the row that decodes the word admits it, and writes back what it reads. -/
theorem encodeAfterDecodeIsTheWord : Obligations.EncodeAfterDecodeIsTheWord := by
  intro w i h
  obtain ⟨r, hr, -, ha, rfl⟩ := decode_eq_ok_iff.mp h
  rw [encode_build hr, reencode_of_admits ha]

/-! ### The match and mask columns -/

/-- The columns as the statement writes them are those of the rows. -/
theorem opcodeColumns_eq : opcodeColumns = opcodeTable.map fun r => (r.pattern, r.mask) := by decide

/-- The opcode bits of the match column are the opcode (30_encoding.md R107, R108). -/
theorem and_opcodeMask_eq_pattern_iff {w : Word32} {r : Row} :
    w &&& 0xFF000000 = r.pattern ↔ opcodeOf w = r.opcode := by
  have hparts : (opcodeOf w ++ w.extractLsb' 0 24) &&& (BitVec.allOnes 8 ++ 0#24) = r.opcode ++ 0#24 ↔
      opcodeOf w = r.opcode := by
    rw [BitVec.and_append, BitVec.and_allOnes, BitVec.and_zero, BitVec.append_left_inj]
  conv_lhs => rw [← opcodeOf_append w]
  exact hparts

/-- Settles O5: the columns are those of the rows, and the row of a word is the one whose match has its opcode. -/
theorem decodeFollowsMatchAndMask : Obligations.DecodeFollowsMatchAndMask := by
  intro w
  rw [opcodeColumns_eq]
  simp only [List.forall_mem_map, ne_eq, and_opcodeMask_eq_pattern_iff]
  refine ⟨fun hnone => ?_, fun r hr hop => ?_⟩
  · exact decode_of_no_row (rowOf_eq_none_iff.mpr fun r hr => Ne.symm (hnone r hr))
  · have hrow := rowOf_eq_some_iff.mpr ⟨hr, hop.symm⟩
    exact ⟨fun ha => ⟨_, decode_of_admits hrow (admits_iff.mpr ha)⟩,
      fun ha => decode_of_not_admits hrow (admits_iff.not.mpr ha)⟩

/-! ### The worked encodings -/

theorem encode_and_decode {i : Instr} {w : Word32} (h : encode i = w) : encode i = w ∧ decode w = .ok i :=
  ⟨h, h ▸ decodeAfterEncodeIsTheInstruction i⟩

/-- Settles O6: each word is computed by the encoder and decodes by O3; the last is refused by the row of MZERO. -/
theorem workedEncodings : Obligations.WorkedEncodings :=
  ⟨encode_and_decode rfl, encode_and_decode rfl, encode_and_decode rfl, encode_and_decode rfl, encode_and_decode rfl,
    encode_and_decode rfl, encode_and_decode rfl, by decide⟩

/-! ### A fetched word that is no instruction -/

theorem sequencerStep_of_decode_error {s : State} {e : DecodeError} (hb : s.status.busy = true)
    (hc : s.cpc.toNat < s.params.cmdWords) (hd : decode (cmdRead s s.cpc.toNat) = .error e) :
    sequencerStep s =
      .next (faulted s (faultCodeByte (decodeTrap e).code) (decodeTrap e).info (cmdRead s s.cpc.toNat)) :=
  (sequencerStep_of_error hb (fetch_of_decode_error hc hd)).trans (congrArg _ (raiseFault_eq_faulted s _ _))

/-- A turn of the sequencer, listed or not, on a word that is no instruction (60_exceptions.md R342). -/
theorem step_of_decode_error {s : State} {e : DecodeError} (hb : s.status.busy = true)
    (hc : s.cpc.toNat < s.params.cmdWords) (hd : decode (cmdRead s s.cpc.toNat) = .error e) :
    (s.inputs = [] → step s =
      .next (faulted s (faultCodeByte (decodeTrap e).code) (decodeTrap e).info (cmdRead s s.cpc.toNat))) ∧
    (∀ rest, s.inputs = .sequencer :: rest → step s = .next (faulted { s with inputs := rest }
      (faultCodeByte (decodeTrap e).code) (decodeTrap e).info (cmdRead s s.cpc.toNat))) :=
  ⟨fun h => (step_of_nil h).trans (sequencerStep_of_decode_error hb hc hd),
    fun rest h => (step_of_sequencer h).trans (sequencerStep_of_decode_error (s := { s with inputs := rest }) hb hc hd)⟩

/-- Settles O9: the two decode errors carry the fault codes 0x01 and 0x02 with the opcode and the offending bits. -/
theorem undecodableWordFaults : Obligations.UndecodableWordFaults := by
  rintro s w hb hc rfl
  exact ⟨fun op hd => step_of_decode_error hb hc hd, fun bits hd => step_of_decode_error hb hc hd⟩

end Sys2Proof.Proofs
end

section
/-! ## The field and its commands (41_field.md)

FADD and FMUL differ only in the operation: `CombinesElems` says what both do, and their results and faults are proved
from it once. What FINV needs of the table is that each entry is the inverse of its index (`gfMul_gfInv`). -/

namespace Sys2Proof.Proofs

open Sys2Proof.Machine Sys2Proof.Claims

/-! ### The laws of the field -/

theorem gfAdd_comm (a b : Elem) : gfAdd a b = gfAdd b a := BitVec.xor_comm a b

@[simp] theorem gfAdd_self (a : Elem) : gfAdd a a = 0 := BitVec.xor_self

@[simp] theorem zero_gfMul (a : Elem) : gfMul 0 a = 0 := if_pos (.inl rfl)

/-- The shortcuts for the left factors 0 and 1 stand before the one for the right factor 1 (41_field.md R141). -/
@[simp] theorem gfMul_one (a : Elem) : gfMul a 1 = a := by
  by_cases h0 : a = 0
  · rw [h0, zero_gfMul]
  · by_cases h1 : a = 1
    · rw [h1]; rfl
    · rw [gfMul, if_neg (not_or.mpr ⟨h0, by decide⟩), if_neg h1, if_pos rfl]

/-- Each entry of the inverse table, by the shift-and-XOR product (41_field.md R142, R148). -/
theorem gfMul_gfInv : ∀ a : Elem, a ≠ 0 → gfMul a (gfInv a) = 1 := by decide

/-- The square of an element. -/
def gfSquare (a : Elem) : Elem := gfMul a a

/-- The table inverse is (a^8 · a^4) · a^2 (41_field.md R146). -/
theorem gfInv_eq_squarings : ∀ a : Elem, a ≠ 0 →
    gfInv a = gfMul (gfMul (gfSquare (gfSquare (gfSquare a))) (gfSquare (gfSquare a))) (gfSquare a) := by decide

/-- The powers of 2 run through the 15 nonzero elements and return to 1 (41_field.md R148). -/
theorem powers_of_two : (List.range 16).map (fun n => (Nat.repeat (gfMul 2) n (1 : Elem)).toNat) =
    [1, 2, 4, 8, 3, 6, 12, 11, 5, 10, 7, 14, 15, 13, 9, 1] := by decide

/-- Settles O21: each law by its lemma. -/
theorem fieldLaws : Obligations.FieldLaws := by
  refine ⟨fun a b => ⟨gfAdd_comm a b, gfAdd_self a, gfMul_one a, zero_gfMul a⟩, fun a ha => ⟨gfMul_gfInv a ha, ?_⟩,
    powers_of_two⟩
  rintro _ _ _ rfl rfl rfl
  exact gfInv_eq_squarings a ha

/-- Settles O20: the 256 products are computed from the shift-and-XOR definition. -/
theorem multiplicationTable : Obligations.MultiplicationTable := by
  unfold Obligations.MultiplicationTable
  decide

/-! ### What a command of registers leaves, in the terms of the claims -/

section Command

variable {i : Instr} {s : State} {d : XReg} {v : Word} {checks : List (Option Trap)} {effect : State → State}

theorem faults_of_command {code : FaultCode} {info : Word} (hi : exec i s = command i s checks effect)
    (hc : firstTrap checks = some ⟨code, info⟩) : faults i s (faultCodeByte code) info :=
  hi.trans (command_of_some hc)

theorem setsX_of_command (hi : exec i s = command i s checks effect) (hc : firstTrap checks = none)
    (he : effect s = setX s d v) : setsX i s d v :=
  hi.trans ((command_of_none hc).trans (by rw [he]; rfl))

end Command

/-! ### Field elements in X registers -/

theorem elemOf_eq_setWidth (v : Word) : elemOf v = v.setWidth 4 :=
  (BitVec.setWidth_eq_extractLsb' (by decide)).symm

/-- A nonzero operand that passes the check is a nonzero element: its upper 60 bits are 0 (41_field.md R143). -/
theorem setWidth_elem_ne_zero {v : Word} (hv : v.toNat ≤ 15) (h0 : v ≠ 0) : (v.setWidth 4 : Elem) ≠ 0 := by
  bv_omega

/-! ### FADD and FMUL -/

/-- The command checks X[a] and X[b] as field elements, in this order, and puts `op` of them in X[d]. -/
def CombinesElems (i : Instr) (d a b : XReg) (op : Elem → Elem → Elem) : Prop :=
  ∀ s, exec i s = command i s [checkElem (getX s a), checkElem (getX s b)] fun s =>
    setX s d (ofElem (op (elemOf (getX s a)) (elemOf (getX s b))))

theorem fadd_combinesElems (d a b : XReg) : CombinesElems (.fadd d a b) d a b gfAdd := fun _ => rfl

theorem fmul_combinesElems (d a b : XReg) : CombinesElems (.fmul d a b) d a b gfMul := fun _ => rfl

section Combines

variable {i : Instr} {s : State} {d a b : XReg} {op : Elem → Elem → Elem}

theorem CombinesElems.setsX (h : CombinesElems i d a b op) (ha : (getX s a).toNat ≤ 15) (hb : (getX s b).toNat ≤ 15) :
    setsX i s d ((op ((getX s a).setWidth 4) ((getX s b).setWidth 4)).setWidth 64) :=
  setsX_of_command (h s) (by simp [checkElem_eq_none_iff.mpr ha, checkElem_eq_none_iff.mpr hb])
    (by simp only [elemOf_eq_setWidth, ofElem])

theorem CombinesElems.faults_first (h : CombinesElems i d a b op) (ha : 15 < (getX s a).toNat) :
    faults i s 0x09 (getX s a) :=
  faults_of_command (code := .badElem) (h s) (by simp [checkElem_of_gt ha])

theorem CombinesElems.faults_second (h : CombinesElems i d a b op) (ha : (getX s a).toNat ≤ 15)
    (hb : 15 < (getX s b).toNat) : faults i s 0x09 (getX s b) :=
  faults_of_command (code := .badElem) (h s) (by simp [checkElem_eq_none_iff.mpr ha, checkElem_of_gt hb])

end Combines

/-! ### FINV -/

section Finv

variable {s : State} {d a : XReg}

theorem exec_finv (s : State) (d a : XReg) :
    exec (.finv d a) s = command (.finv d a) s [checkElem (getX s a), checkInvertible (getX s a)] fun s =>
      setX s d (ofElem (gfInv (elemOf (getX s a)))) := rfl

theorem finv_setsX (ha : (getX s a).toNat ≤ 15) (h0 : getX s a ≠ 0) :
    setsX (.finv d a) s d ((gfInv ((getX s a).setWidth 4)).setWidth 64) :=
  setsX_of_command (exec_finv s d a) (by simp [checkElem_eq_none_iff.mpr ha, checkInvertible_eq_none_iff.mpr h0])
    (by simp only [elemOf_eq_setWidth, ofElem])

theorem finv_faults_of_gt (ha : 15 < (getX s a).toNat) : faults (.finv d a) s 0x09 (getX s a) :=
  faults_of_command (code := .badElem) (exec_finv s d a) (by simp [checkElem_of_gt ha])

theorem finv_faults_of_zero (h0 : getX s a = 0) : faults (.finv d a) s 0x0A 0 :=
  faults_of_command (code := .invZero) (exec_finv s d a) (by simp [h0, checkElem, checkInvertible])

end Finv

/-- Settles O22: FADD and FMUL by `CombinesElems`; the element FINV writes is the table's. -/
theorem fieldCommandResults : Obligations.FieldCommandResults := by
  intro s d a b
  have hadd := fadd_combinesElems d a b
  have hmul := fmul_combinesElems d a b
  refine ⟨fun ha hb => ⟨hadd.setsX ha hb, hmul.setsX ha hb⟩,
    fun ha => ⟨hadd.faults_first ha, hmul.faults_first ha, finv_faults_of_gt ha⟩,
    fun ha hb => ⟨hadd.faults_second ha hb, hmul.faults_second ha hb⟩, finv_faults_of_zero, fun ha h0 => ?_⟩
  exact ⟨_, finv_setsX ha h0, gfMul_gfInv _ (setWidth_elem_ne_zero ha h0)⟩

end Sys2Proof.Proofs
end

section
/-! ## The bitsliced groups and their commands, and the draws (42_group.md)

What each operation on planes does to a lane is said once (`lane_scale`, `lane_gmix`, `getLsbD_nzpos`); a command of the
family is its list of checks and one such operation. `scale` is compared with `gfMul` through the four bits of a product
(`gfMul_bits`): its plane equations are these four equations, read for 64 lanes at a time. -/

namespace Sys2Proof.Proofs

open Sys2Proof.Machine Sys2Proof.Claims

/-! ### The plane equations of scale -/

/-- The bits of a product of elements: the raw products of each degree, those of degree 4 to 6 folded by x⁴ = x + 1
(41_field.md R141, 42_group.md R160). -/
theorem gfMul_bits : ∀ a e : Elem,
    (gfMul a e)[0] = ((e[0] && a[0]) ^^ (e[1] && a[3]) ^^ (e[2] && a[2]) ^^ (e[3] && a[1])) ∧
    (gfMul a e)[1] = ((e[0] && a[1]) ^^ (e[1] && a[0]) ^^ (e[1] && a[3]) ^^ (e[2] && a[2]) ^^ (e[3] && a[1]) ^^
      (e[2] && a[3]) ^^ (e[3] && a[2])) ∧
    (gfMul a e)[2] = ((e[0] && a[2]) ^^ (e[1] && a[1]) ^^ (e[2] && a[0]) ^^ (e[2] && a[3]) ^^ (e[3] && a[2]) ^^
      (e[3] && a[3])) ∧
    (gfMul a e)[3] = ((e[0] && a[3]) ^^ (e[1] && a[2]) ^^ (e[2] && a[1]) ^^ (e[3] && a[0]) ^^ (e[3] && a[3])) := by
  decide

/-- Each lane is multiplied by the scalar (42_group.md R160). -/
theorem lane_scale (g : Grp64) (c : Elem) (i : Nat) : lane (scale g c) i = gfMul (lane g i) c := by
  obtain ⟨h0, h1, h2, h3⟩ := gfMul_bits (lane g i) c
  apply elem_ext
  · simp [h0, scale, getLsbD_planeIf]
  · simp [h1, scale, getLsbD_planeIf]
  · simp [h2, scale, getLsbD_planeIf]
  · simp [h3, scale, getLsbD_planeIf]

/-- Settles O23: `lane_scale`, which holds of every lane index. -/
theorem scaleIsTheLanewiseProduct : Obligations.ScaleIsTheLanewiseProduct :=
  fun g c i _ => lane_scale g c i

/-! ### Lanes of sums, masks and blends -/

theorem lane_gxor_eq_gfAdd (g h : Grp64) (j : Nat) : lane (gxor g h) j = gfAdd (lane g j) (lane h j) :=
  lane_gxor g h j

@[simp] theorem gfAdd_zero (a : Elem) : gfAdd a 0 = a := BitVec.xor_zero

/-- A blend takes each lane from one of the two groups (42_group.md R174). -/
theorem lane_gmix (g h : Grp64) (m : Word) {j : Nat} (hj : j < 64) :
    lane (gmix g h m) j = if m.getLsbD j then lane g j else lane h j := by
  rw [gmix, lane_gxor, lane_gmask, lane_gmask, BitVec.getLsbD_not, decide_eq_true hj]
  cases m.getLsbD j <;> simp

/-- Masking with all bits but one zeroes that lane (42_group.md R173). -/
theorem lane_gmask_not_bit (g : Grp64) (i : Nat) {j : Nat} (hj : j < 64) :
    lane (gmask g (~~~(bit i))) j = if j = i then 0 else lane g j := by
  rw [lane_gmask, BitVec.getLsbD_not, getLsbD_bit, decide_eq_true hj]
  by_cases h : i = j <;> simp [h, eq_comm]

/-- Only lane i is written (42_group.md R170, R171). -/
theorem lane_setLane_index (g : Grp64) (i : Nat) (v : Elem) {j : Nat} (hj : j < 64) :
    lane (setLane g i v) j = if j = i then v else lane g j := by
  rw [lane_setLane g i j hj]
  exact if_congr eq_comm rfl rfl

/-! ### What a command that writes a group leaves, in the terms of the claims -/

section GroupCommand

variable {i : Instr} {s : State} {d : GReg} {v : State → Grp64} {f : Nat → Elem} {checks : List (Option Trap)}
  {effect : State → State} {k e : Word}

theorem setsG_of_command (hi : exec i s = command i s checks fun s => setG s d (v s)) (hc : firstTrap checks = none)
    (hl : ∀ j < 64, lane (v s) j = f j) : setsG i s d f :=
  ⟨v s, hi.trans (command_of_none hc), hl⟩

theorem setsG_of_checkElem (hi : exec i s = command i s [checkElem e] fun s => setG s d (v s)) (he : e.toNat ≤ 15)
    (hl : ∀ j < 64, lane (v s) j = f j) : setsG i s d f :=
  setsG_of_command hi (by simp [checkElem_eq_none_iff.mpr he]) hl

theorem setsG_of_checkIndex (hi : exec i s = command i s [checkIndex k] fun s => setG s d (v s)) (hk : k.toNat ≤ 63)
    (hl : ∀ j < 64, lane (v s) j = f j) : setsG i s d f :=
  setsG_of_command hi (by simp [checkIndex_eq_none_iff.mpr hk]) hl

theorem setsG_of_checkIndex_checkElem (hi : exec i s = command i s [checkIndex k, checkElem e] fun s => setG s d (v s))
    (hk : k.toNat ≤ 63) (he : e.toNat ≤ 15) (hl : ∀ j < 64, lane (v s) j = f j) : setsG i s d f :=
  setsG_of_command hi (by simp [checkIndex_eq_none_iff.mpr hk, checkElem_eq_none_iff.mpr he]) hl

/-- An index check that comes first faults whatever the later checks are (60_exceptions.md R341). -/
theorem faults_badIndex (hi : exec i s = command i s (checkIndex k :: checks) effect) (hk : 63 < k.toNat) :
    faults i s 0x06 k :=
  faults_of_command (code := .badIndex) hi (by simp [checkIndex_of_gt hk])

theorem faults_badElem (hi : exec i s = command i s (checkElem e :: checks) effect) (he : 15 < e.toNat) :
    faults i s 0x09 e :=
  faults_of_command (code := .badElem) hi (by simp [checkElem_of_gt he])

theorem faults_badElem_of_index (hi : exec i s = command i s (checkIndex k :: checkElem e :: checks) effect)
    (hk : k.toNat ≤ 63) (he : 15 < e.toNat) : faults i s 0x09 e :=
  faults_of_command (code := .badElem) hi (by simp [checkIndex_eq_none_iff.mpr hk, checkElem_of_gt he])

end GroupCommand

/-! ### The commands: their checks and their effect -/

section Arms

variable (s : State)

theorem exec_gzero (d : GReg) : exec (.gzero d) s = command (.gzero d) s [] fun s => setG s d zeroGroup := rfl

theorem exec_gcopy (d a : GReg) : exec (.gcopy d a) s = command (.gcopy d a) s [] fun s => setG s d (getG s a) := rfl

theorem exec_gadd (d a : GReg) :
    exec (.gadd d a) s = command (.gadd d a) s [] fun s => setG s d (gxor (getG s d) (getG s a)) := rfl

theorem exec_gzsub (d : GReg) (a : XReg) :
    exec (.gzsub d a) s = command (.gzsub d a) s [] fun s => setG s d (gmask (getG s d) (getX s a)) := rfl

theorem exec_gmix (d a : GReg) (b : XReg) :
    exec (.gmix d a b) s = command (.gmix d a b) s [] fun s => setG s d (gmix (getG s d) (getG s a) (getX s b)) := rfl

theorem exec_gset (d : GReg) (a b : XReg) :
    exec (.gset d a b) s = command (.gset d a b) s [checkIndex (getX s a), checkElem (getX s b)] fun s =>
      setG s d (setLane (getG s d) (getX s a).toNat (elemOf (getX s b))) := rfl

theorem exec_gaddat (d : GReg) (a b : XReg) :
    exec (.gaddat d a b) s = command (.gaddat d a b) s [checkIndex (getX s a), checkElem (getX s b)] fun s =>
      setG s d (setLane (getG s d) (getX s a).toNat (gfAdd (lane (getG s d) (getX s a).toNat) (elemOf (getX s b)))) :=
  rfl

theorem exec_gzat (d : GReg) (a : XReg) :
    exec (.gzat d a) s = command (.gzat d a) s [checkIndex (getX s a)] fun s =>
      setG s d (gmask (getG s d) (~~~(bit (getX s a).toNat))) := rfl

theorem exec_gscale (d a : GReg) (b : XReg) :
    exec (.gscale d a b) s = command (.gscale d a b) s [checkElem (getX s b)] fun s =>
      setG s d (scale (getG s a) (elemOf (getX s b))) := rfl

theorem exec_gfma (d a : GReg) (b : XReg) :
    exec (.gfma d a b) s = command (.gfma d a b) s [checkElem (getX s b)] fun s =>
      setG s d (gxor (getG s d) (scale (getG s a) (elemOf (getX s b)))) := rfl

theorem exec_gfmam (d a : GReg) (b c : XReg) :
    exec (.gfmam d a b c) s = command (.gfmam d a b c) s [checkElem (getX s b)] fun s =>
      setG s d (gxor (getG s d) (gmask (scale (getG s a) (elemOf (getX s b))) (getX s c))) := rfl

theorem exec_gscalei (d a b : GReg) (c : XReg) :
    exec (.gscalei d a b c) s = command (.gscalei d a b c) s [checkIndex (getX s c)] fun s =>
      setG s d (scale (getG s a) (lane (getG s b) (getX s c).toNat)) := rfl

theorem exec_gfmai (d a b : GReg) (c : XReg) :
    exec (.gfmai d a b c) s = command (.gfmai d a b c) s [checkIndex (getX s c)] fun s =>
      setG s d (gxor (getG s d) (scale (getG s a) (lane (getG s b) (getX s c).toNat))) := rfl

theorem exec_geq (d : XReg) (a b : GReg) :
    exec (.geq d a b) s = command (.geq d a b) s [] fun s =>
      setX s d (ofFlag (zpos (gxor (getG s a) (getG s b)) == ones)) := rfl

theorem exec_gzpos (d : XReg) (a : GReg) :
    exec (.gzpos d a) s = command (.gzpos d a) s [] fun s => setX s d (zpos (getG s a)) := rfl

theorem exec_gnzpos (d : XReg) (a : GReg) :
    exec (.gnzpos d a) s = command (.gnzpos d a) s [] fun s => setX s d (nzpos (getG s a)) := rfl

/-- The two answers of GFNZ, 64 where no lane is nonzero, as one value (42_group.md R175). -/
theorem exec_gfnz (d : XReg) (a : GReg) :
    exec (.gfnz d a) s = command (.gfnz d a) s [] fun s =>
      setX s d ((lowestSet (nzpos (getG s a))).elim 64 (BitVec.ofNat 64)) := by
  change execGfnz d a s = _
  unfold execGfnz
  congr 1
  funext s
  cases lowestSet (nzpos (getG s a)) <;> rfl

theorem exec_gget (d : XReg) (a : GReg) (b : XReg) :
    exec (.gget d a b) s = command (.gget d a b) s [checkIndex (getX s b)] fun s =>
      setX s d (ofElem (lane (getG s a) (getX s b).toNat)) := rfl

end Arms

/-! ### The commands that write a group -/

/-- Settles O24: three commands without checks. -/
theorem groupZeroCopyAddLanes : Obligations.GroupZeroCopyAddLanes := by
  intro s d a
  exact ⟨setsG_of_command (exec_gzero s d) rfl fun j _ => lane_zeroGroup j,
    setsG_of_command (exec_gcopy s d a) rfl fun _ _ => rfl,
    setsG_of_command (exec_gadd s d a) rfl fun j _ => lane_gxor_eq_gfAdd _ _ j⟩

/-- Settles O25: GZSUB masks and GMIX blends. -/
theorem groupMaskAndMixLanes : Obligations.GroupMaskAndMixLanes := by
  intro s d a m
  exact ⟨setsG_of_command (exec_gzsub s d m) rfl fun j _ => lane_gmask _ _ j,
    setsG_of_command (exec_gmix s d a m) rfl fun _ hj => lane_gmix _ _ _ hj⟩

/-- Settles O26: GSET and GADDAT write the lane of the index, GZAT masks it out; the index check comes first. -/
theorem groupOneLaneResults : Obligations.GroupOneLaneResults := by
  intro s d a b
  have hset := exec_gset s d a b
  have haddat := exec_gaddat s d a b
  have hzat := exec_gzat s d a
  refine ⟨fun ha hb => ⟨setsG_of_checkIndex_checkElem hset ha hb fun j hj => ?_,
      setsG_of_checkIndex_checkElem haddat ha hb fun j hj => ?_⟩,
    fun ha => setsG_of_checkIndex hzat ha fun _ hj => lane_gmask_not_bit _ _ hj,
    fun ha => ⟨faults_badIndex hset ha, faults_badIndex haddat ha, faults_badIndex hzat ha⟩,
    fun ha hb => ⟨faults_badElem_of_index hset ha hb, faults_badElem_of_index haddat ha hb⟩⟩
  · rw [lane_setLane_index _ _ _ hj, elemOf_eq_setWidth]
  · rw [lane_setLane_index _ _ _ hj, elemOf_eq_setWidth]
    split
    next h => rw [h]
    next => rfl

/-- Settles O27: the lanes of scaled, summed and masked groups. -/
theorem groupScaleAndMultiplyAddLanes : Obligations.GroupScaleAndMultiplyAddLanes := by
  intro s d a b c
  have hscale := exec_gscale s d a b
  have hfma := exec_gfma s d a b
  have hfmam := exec_gfmam s d a b c
  refine ⟨fun hb => ⟨setsG_of_checkElem hscale hb fun j _ => ?_, setsG_of_checkElem hfma hb fun j _ => ?_,
      setsG_of_checkElem hfmam hb fun j _ => ?_⟩,
    fun hb => ⟨faults_badElem hscale hb, faults_badElem hfma hb, faults_badElem hfmam hb⟩⟩
  · rw [lane_scale, elemOf_eq_setWidth]
  · rw [lane_gxor_eq_gfAdd, lane_scale, elemOf_eq_setWidth]
  · rw [lane_gxor_eq_gfAdd, lane_gmask, lane_scale, elemOf_eq_setWidth]
    split
    · rfl
    · exact gfAdd_zero _

/-- Settles O28: the scalar is a lane, so that it needs no check of its own. -/
theorem groupIndexedScalarLanes : Obligations.GroupIndexedScalarLanes := by
  intro s d a b c
  have hscalei := exec_gscalei s d a b c
  have hfmai := exec_gfmai s d a b c
  refine ⟨fun hc => ⟨setsG_of_checkIndex hscalei hc fun j _ => lane_scale _ _ j,
      setsG_of_checkIndex hfmai hc fun j _ => ?_⟩,
    fun hc => ⟨faults_badIndex hscalei hc, faults_badIndex hfmai hc⟩⟩
  rw [lane_gxor_eq_gfAdd, lane_scale]

/-! ### Position masks -/

theorem elem_eq_zero_iff (e : Elem) : e = 0 ↔ e[0] = false ∧ e[1] = false ∧ e[2] = false ∧ e[3] = false := by
  refine ⟨by rintro rfl; decide, ?_⟩
  rintro ⟨h0, h1, h2, h3⟩
  apply elem_ext <;> simpa

/-- A lane is nonzero where a plane has its bit set (42_group.md R161). -/
theorem getLsbD_nzpos (g : Grp64) (j : Nat) : (nzpos g).getLsbD j = true ↔ lane g j ≠ 0 := by
  rw [Ne, elem_eq_zero_iff]
  simp only [lane_bit0, lane_bit1, lane_bit2, lane_bit3, nzpos, BitVec.getLsbD_or, Bool.or_eq_true]
  simp only [← Bool.not_eq_true, ← not_or, not_not, or_assoc]

theorem getLsbD_zpos (g : Grp64) {j : Nat} (hj : j < 64) : (zpos g).getLsbD j = true ↔ lane g j = 0 := by
  have h := (getLsbD_nzpos g j).not_left
  simpa [zpos, hj] using h

theorem getLsbD_ones {j : Nat} (hj : j < 64) : ones.getLsbD j = true :=
  BitVec.getLsbD_allOnes.trans (decide_eq_true hj)

theorem zpos_eq_ones_iff (g : Grp64) : zpos g = ones ↔ ∀ j < 64, lane g j = 0 := by
  refine ⟨fun h j hj => (getLsbD_zpos g hj).mp ?_, fun h => BitVec.eq_of_getLsbD_eq fun j hj => ?_⟩
  · rw [h, getLsbD_ones hj]
  · rw [(getLsbD_zpos g hj).mpr (h j hj), getLsbD_ones hj]

/-- Two groups agree in every lane where their sum has only zero lanes (42_group.md R166). -/
theorem zpos_gxor_eq_ones_iff (g h : Grp64) : zpos (gxor g h) = ones ↔ ∀ j < 64, lane g j = lane h j := by
  simp only [zpos_eq_ones_iff, lane_gxor]
  exact forall₂_congr fun _ _ => BitVec.xor_eq_zero_iff

/-- Settles O29: GEQ by `zpos_gxor_eq_ones_iff`, the two masks bit by bit. -/
theorem groupComparisonsReadLanes : Obligations.GroupComparisonsReadLanes := by
  intro s d a b
  have hgeq : setsX (.geq d a b) s d (ofFlag (zpos (gxor (getG s a) (getG s b)) == ones)) :=
    setsX_of_command (exec_geq s d a b) rfl rfl
  refine ⟨fun h => ?_, fun ⟨j, hj, hne⟩ => ?_,
    ⟨_, setsX_of_command (exec_gzpos s d a) rfl rfl, fun j hj => getLsbD_zpos _ hj⟩,
    ⟨_, setsX_of_command (exec_gnzpos s d a) rfl rfl, fun j _ => getLsbD_nzpos _ j⟩⟩
  · rwa [beq_iff_eq.mpr ((zpos_gxor_eq_ones_iff _ _).mpr h)] at hgeq
  · rwa [beq_eq_false_iff_ne.mpr fun h => hne ((zpos_gxor_eq_ones_iff _ _).mp h j hj)] at hgeq

/-! ### Reads of one lane -/

theorem lowestSet_nzpos_eq_some {g : Grp64} {i : Nat} (hi : i < 64) (hne : lane g i ≠ 0)
    (hz : ∀ j < i, lane g j = 0) : lowestSet (nzpos g) = some i := by
  refine List.find?_range_eq_some.mpr ⟨(getLsbD_nzpos g i).mpr hne, List.mem_range.mpr hi, fun j hj => ?_⟩
  simpa [hz j hj] using getLsbD_nzpos g j

theorem lowestSet_nzpos_eq_none {g : Grp64} (hz : ∀ j < 64, lane g j = 0) : lowestSet (nzpos g) = none := by
  refine List.find?_eq_none.mpr fun j hj => ?_
  rw [getLsbD_nzpos, not_ne_iff]
  exact hz j (List.mem_range.mp hj)

/-- Settles O30: GFNZ by the lowest set bit of the nonzero positions. -/
theorem groupLaneReads : Obligations.GroupLaneReads := by
  intro s d a b
  have hget := exec_gget s d a b
  have hfnz : setsX (.gfnz d a) s d ((lowestSet (nzpos (getG s a))).elim 64 (BitVec.ofNat 64)) :=
    setsX_of_command (exec_gfnz s d a) rfl rfl
  refine ⟨fun hb => setsX_of_command hget (by simp [checkIndex_eq_none_iff.mpr hb]) rfl, faults_badIndex hget,
    fun i hi hne hz => ?_, fun hz => ?_⟩
  · rwa [lowestSet_nzpos_eq_some hi hne hz] at hfnz
  · rwa [lowestSet_nzpos_eq_none hz] at hfnz

/-! ### Draws -/

theorem plane_draw256 (n : Nat) (p : Fin 4) : plane (draw256 n) p = (Config.entropy n).extractLsb' (64 * p.val) 64 := by
  fin_cases p <;> rfl

/-- n draws from draw number k on, in row order (42_group.md R163). -/
def drawRows (k n : Nat) : List Grp64 := (List.range n).map fun r => draw256 (k + r)

@[simp] theorem length_drawRows (k n : Nat) : (drawRows k n).length = n := by simp [drawRows]

theorem rowLoad_rowsStore_drawRows {m : Memory} (hm : memWf m = true) (b k : Nat) {n r : Nat} (hr : r < n) :
    rowLoad (rowsStore m b (drawRows k n)) (b + r) = draw256 (k + r) := by
  rw [rowLoad_rowsStore hm b _ r (by simpa using hr)]
  simp [drawRows]

theorem exec_brand (s : State) (d : BReg) :
    exec (.brand d) s = blockCommand (.brand d) s [d] [checkDesc s d] fun s =>
      setBlockRows (takeDraws s (rnum s d)) d (drawRows s.draws (rnum s d)) := rfl

theorem exec_brand_of_ready {s : State} {d : BReg} (h : blockReady s d) :
    exec (.brand d) s = .next { advanced s with
      mem := rowsStore s.mem (base s d) (drawRows s.draws (rnum s d)), draws := s.draws + rnum s d } := by
  obtain ⟨hvalid, hfits⟩ := h
  have hchecks : firstTrap [checkDesc s d] = none := by simp [checkDesc_eq_none_iff.mpr hvalid]
  have hrows : ∀ k ∈ [d], descFits s k = true := by simpa [descFits_iff] using hfits
  exact (exec_brand s d).trans (blockCommand_of_none hchecks hrows)

/-- Settles O31: GRAND and MRAND have no checks and run by definition; BRAND stores its rows and no other byte. -/
theorem randCommandsWriteDraws : Obligations.RandCommandsWriteDraws := by
  refine ⟨fun s d => ⟨_, rfl, plane_draw256 _⟩, fun s d => ⟨_, rfl, fun r p => ?_⟩,
    fun s d hready hwf => ⟨_, exec_brand_of_ready hready, fun r hr p => ?_, fun a ha => ?_⟩⟩
  · rw [matrixOf_getElem, plane_draw256]
  · rw [rowLoad_rowsStore_drawRows hwf _ _ hr, plane_draw256]
  · apply memByte_rowsStore_ne
    rw [length_drawRows]
    exact Nat.lt_or_ge a _ |>.imp_right fun hlo => Nat.le_of_not_lt fun hhi => ha ⟨hlo, hhi⟩

end Sys2Proof.Proofs
end

section
/-! ## The arithmetic of fixed matrices (43_matrix.md section 1)

Multiplication from the right by a matrix commutes with the operations on rows: `gxor_rowMul` and `scale_rowMul`. They
rest on the laws by which `gfMul` distributes and associates, read for a whole group. -/

namespace Sys2Proof.Proofs

open Sys2Proof.Machine Sys2Proof.Claims

/-! ### More laws of the field -/

theorem gfMul_comm : ∀ a b : Elem, gfMul a b = gfMul b a := by decide

@[simp] theorem gfMul_zero (a : Elem) : gfMul a 0 = 0 := by
  rw [gfMul_comm, zero_gfMul]

@[simp] theorem one_gfMul (a : Elem) : gfMul 1 a = a := by
  rw [gfMul_comm, gfMul_one]

/-- As a right factor, e associates and distributes. -/
structure LawfulFactor (e : Elem) : Prop where
  assoc (a b : Elem) : gfMul (gfMul a b) e = gfMul a (gfMul b e)
  distrib (a b : Elem) : gfMul (a ^^^ b) e = gfMul a e ^^^ gfMul b e

theorem lawfulFactor_zero : LawfulFactor 0 where
  assoc a b := by simp only [gfMul_zero]
  distrib a b := by simp only [gfMul_zero]; rfl

theorem lawfulFactor_one : LawfulFactor 1 where
  assoc a b := by simp only [gfMul_one]
  distrib a b := by simp only [gfMul_one]

theorem lawfulFactor_two : LawfulFactor 2 where
  assoc := by decide
  distrib := by decide

theorem LawfulFactor.mul {e f : Elem} (he : LawfulFactor e) (hf : LawfulFactor f) : LawfulFactor (gfMul e f) where
  assoc a b := by rw [← hf.assoc, he.assoc, hf.assoc, hf.assoc]
  distrib a b := by rw [← hf.assoc, he.distrib, hf.distrib, hf.assoc, hf.assoc]

theorem lawfulFactor_power (n : Nat) : LawfulFactor (Nat.repeat (gfMul 2) n 1) := by
  induction n with
  | zero => exact lawfulFactor_one
  | succ n ih => exact lawfulFactor_two.mul ih

/-- 2 generates the nonzero elements (41_field.md R148). -/
theorem exists_power_of_two : ∀ e : Elem, e ≠ 0 → ∃ n : Fin 15, Nat.repeat (gfMul 2) n 1 = e := by decide

/-- The lawful factors are closed under products and contain 2, which generates. -/
theorem lawfulFactor (e : Elem) : LawfulFactor e := by
  by_cases he : e = 0
  · exact he ▸ lawfulFactor_zero
  · obtain ⟨n, rfl⟩ := exists_power_of_two e he
    exact lawfulFactor_power n

theorem gfMul_assoc (a b e : Elem) : gfMul (gfMul a b) e = gfMul a (gfMul b e) := (lawfulFactor e).assoc a b

theorem xor_gfMul (a b e : Elem) : gfMul (a ^^^ b) e = gfMul a e ^^^ gfMul b e := (lawfulFactor e).distrib a b

theorem gfMul_xor (a b e : Elem) : gfMul a (b ^^^ e) = gfMul a b ^^^ gfMul a e := by
  simp only [gfMul_comm a, xor_gfMul]

/-- Inverses are unique, so an inverse of a nonzero element is the table's. -/
theorem eq_gfInv_of_gfMul_eq_one {a b : Elem} (ha : a ≠ 0) (h : gfMul a b = 1) : b = gfInv a :=
  calc b = gfMul b (gfMul a (gfInv a)) := by rw [gfMul_gfInv a ha, gfMul_one]
    _ = gfMul (gfMul a b) (gfInv a) := by rw [← gfMul_assoc, gfMul_comm b a]
    _ = gfInv a := by rw [h, one_gfMul]

/-! ### The laws of scale -/

theorem scale_gxor (g h : Grp64) (e : Elem) : scale (gxor g h) e = gxor (scale g e) (scale h e) :=
  grp_ext fun i _ => by simp only [lane_scale, lane_gxor, xor_gfMul]

theorem scale_xor (g : Grp64) (e f : Elem) : scale g (e ^^^ f) = gxor (scale g e) (scale g f) :=
  grp_ext fun i _ => by simp only [lane_scale, lane_gxor, gfMul_xor]

theorem scale_scale (g : Grp64) (e f : Elem) : scale (scale g e) f = scale g (gfMul e f) :=
  grp_ext fun i _ => by simp only [lane_scale, gfMul_assoc]

theorem scale_zeroGroup (e : Elem) : scale zeroGroup e = zeroGroup :=
  grp_ext fun i _ => by simp only [lane_scale, lane_zeroGroup, zero_gfMul]

theorem gxor_gxor_cancel (g h : Grp64) : gxor (gxor g h) h = g := by
  rw [gxor_assoc, gxor_self, gxor_zeroGroup]

/-! ### Sums of groups -/

theorem gxorSum_gxor (f g : Fin 64 → Grp64) :
    gxorSum (fun k => gxor (f k) (g k)) = gxor (gxorSum f) (gxorSum g) := by
  have hinit : zeroGroup = gxor zeroGroup zeroGroup := (gxor_self _).symm
  unfold gxorSum
  rw [← List.foldl_hom₂ _ gxor _ _ (fun acc k => gxor acc (gxor (f k) (g k))), ← hinit]
  intro a b i
  simp only [gxor_assoc, ← gxor_assoc (f i) b, gxor_comm (f i) b]

theorem scale_gxorSum (f : Fin 64 → Grp64) (e : Elem) : scale (gxorSum f) e = gxorSum fun k => scale (f k) e := by
  unfold gxorSum
  rw [← List.foldl_hom (scale · e) (g₂ := fun acc k => gxor acc (scale (f k) e)) fun acc k =>
    (scale_gxor acc (f k) e).symm, scale_zeroGroup]

/-- Lane j of a sum is the field sum of the lanes j. -/
theorem lane_gxorSum (f : Fin 64 → Grp64) (j : Nat) :
    lane (gxorSum f) j = xorAll ((List.finRange 64).map fun k => lane (f k) j) := by
  unfold gxorSum xorAll
  rw [List.foldl_map, ← List.foldl_hom (lane · j) (g₂ := fun acc k => acc ^^^ lane (f k) j) fun acc k =>
    (lane_gxor acc (f k) j).symm, lane_zeroGroup]

theorem foldl_gxor_single (f : Fin 64 → Grp64) (r : Fin 64) (l : List (Fin 64)) (hl : l.Nodup) (acc : Grp64) :
    l.foldl (fun acc k => gxor acc (if r = k then f k else zeroGroup)) acc = if r ∈ l then gxor acc (f r) else acc := by
  induction l generalizing acc with
  | nil => simp
  | cons k l ih =>
    obtain ⟨hk, hl⟩ := List.nodup_cons.mp hl
    rw [List.foldl_cons, ih hl]
    by_cases h : r = k
    · subst h; simp [hk]
    · simp [h, gxor_zeroGroup]

/-- A sum with one term. -/
theorem gxorSum_single (f : Fin 64 → Grp64) (r : Fin 64) :
    gxorSum (fun k => if r = k then f k else zeroGroup) = f r := by
  unfold gxorSum
  rw [foldl_gxor_single f r _ (List.nodup_finRange 64), if_pos (List.mem_finRange r), zeroGroup_gxor]

/-! ### Rows of products -/

theorem gxor_rowMul (v w : Grp64) (b : Mat64) : rowMul (gxor v w) b = gxor (rowMul v b) (rowMul w b) := by
  simp only [rowMul, ← gxorSum_gxor, lane_gxor, scale_xor]

theorem scale_rowMul (v : Grp64) (e : Elem) (b : Mat64) : rowMul (scale v e) b = scale (rowMul v b) e := by
  simp only [rowMul, scale_gxorSum, lane_scale, scale_scale]

theorem lane_rowMul (v : Grp64) (b : Mat64) (c : Fin 64) :
    lane (rowMul v b) c = xorAll ((List.finRange 64).map fun k => gfMul (lane v k.val) (entry b k c)) := by
  simp only [rowMul, lane_gxorSum, lane_scale, entry, gfMul_comm (lane v _)]

@[simp] theorem mmul_getElem (a b : Mat64) (r : Fin 64) : (mmul a b)[r] = rowMul a[r] b :=
  matrixOf_getElem _ r

/-- IDENT is neutral on the left: the sum that makes row r has the one term k = r. -/
theorem identMatrix_mmul (m : Mat64) : mmul identMatrix m = m := by
  refine mat_ext fun r => ?_
  have hterm : ∀ k : Fin 64, scale m[k] (lane identMatrix[r] k) = if r = k then m[k] else zeroGroup := fun k => by
    rw [show lane identMatrix[r] k = _ from entry_identMatrix r k]
    split
    · exact scale_one _
    · exact scale_zero _
  rw [mmul_getElem, rowMul, funext hterm, gxorSum_single fun k => m[k]]

/-! ### Entries -/

/-- Matrices with the same entries are equal. -/
theorem mat_ext_entry {a b : Mat64} (h : ∀ r c, entry a r c = entry b r c) : a = b :=
  mat_ext fun r => grp_ext fun i hi => h r ⟨i, hi⟩

theorem entry_zeroMatrix (r c : Fin 64) : entry zeroMatrix r c = 0 := by
  rw [entry, zeroMatrix_getElem, lane_zeroGroup]

theorem entry_mmul (a b : Mat64) (r c : Fin 64) :
    entry (mmul a b) r c = xorAll ((List.finRange 64).map fun k => gfMul (entry a r k) (entry b k c)) := by
  rw [entry, mmul_getElem, lane_rowMul]
  rfl

theorem set_getElem_row (m : Mat64) (p r : Fin 64) (g : Grp64) : (m.set p g)[r] = if r = p then g else m[r] := by
  simp [Vector.getElem_set, Fin.ext_iff, eq_comm]

theorem entry_set (m : Mat64) (p r c : Fin 64) (g : Grp64) :
    entry (m.set p g) r c = if r = p then lane g c else entry m r c := by
  rw [entry, set_getElem_row]
  split <;> rfl

theorem entry_swapRows (m : Mat64) (p q r c : Fin 64) :
    entry (swapRows m p q) r c = if r = q then entry m p c else if r = p then entry m q c else entry m r c := by
  simp only [entry, swapRows_getElem, eq_comm (a := r)]
  split_ifs <;> rfl

theorem isSymmetric_iff (m : Mat64) : isSymmetric m = true ↔ ∀ i j : Fin 64, i < j → entry m i j = entry m j i := by
  simp only [isSymmetric, List.all_eq_true, List.mem_finRange, true_imp_iff, Bool.or_eq_true, Bool.not_eq_true',
    decide_eq_false_iff_not, beq_iff_eq, ← imp_iff_not_or]

end Sys2Proof.Proofs
end

section
/-! ## The commands over fixed matrices (43_matrix.md R221 to R231)

Each command is its list of checks and one operation of the section before; MGJ is in the section after. -/

namespace Sys2Proof.Proofs

open Sys2Proof.Machine Sys2Proof.Claims

section MatrixCommand

variable {i : Instr} {s : State} {d : MReg} {v : State → Mat64} {f : Fin 64 → Fin 64 → Elem}
  {checks : List (Option Trap)} {effect : State → State} {k e : Word}

theorem setsM_of_command (hi : exec i s = command i s checks fun s => setM s d (v s)) (hc : firstTrap checks = none)
    (hv : ∀ r c, entry (v s) r c = f r c) : setsM i s d f :=
  ⟨v s, hi.trans (command_of_none hc), hv⟩

/-- The second of two index checks faults where the first passes (60_exceptions.md R341). -/
theorem faults_badIndex_of_index (hi : exec i s = command i s (checkIndex k :: checkIndex e :: checks) effect)
    (hk : k.toNat ≤ 63) (he : 63 < e.toNat) : faults i s 0x06 e :=
  faults_of_command (code := .badIndex) hi (by simp [checkIndex_eq_none_iff.mpr hk, checkIndex_of_gt he])

theorem checkIndex_of_eq {n : Fin 64} (h : k.toNat = n) : checkIndex k = none :=
  checkIndex_eq_none_iff.mpr (by omega)

theorem rowIndex_of_eq {n : Fin 64} (h : k.toNat = n) : rowIndex k = n := by
  rw [rowIndex, h]
  exact Fin.ofNat_val_eq_self n

end MatrixCommand

/-! ### The commands: their checks and their effect -/

section Arms

variable (s : State)

theorem exec_mzero (d : MReg) : exec (.mzero d) s = command (.mzero d) s [] fun s => setM s d zeroMatrix := rfl

theorem exec_mident (d : MReg) : exec (.mident d) s = command (.mident d) s [] fun s => setM s d identMatrix := rfl

theorem exec_mcopy (d a : MReg) : exec (.mcopy d a) s = command (.mcopy d a) s [] fun s => setM s d (getM s a) := rfl

theorem exec_mswap (d : MReg) (a b : XReg) :
    exec (.mswap d a b) s = command (.mswap d a b) s [checkIndex (getX s a), checkIndex (getX s b)] fun s =>
      setM s d (swapRows (getM s d) (rowIndex (getX s a)) (rowIndex (getX s b))) := rfl

theorem exec_mmul (d a b : MReg) :
    exec (.mmul d a b) s = command (.mmul d a b) s [] fun s => setM s d (mmul (getM s a) (getM s b)) := rfl

theorem exec_msym (d : XReg) (a : MReg) :
    exec (.msym d a) s = command (.msym d a) s [] fun s => setX s d (ofFlag (isSymmetric (getM s a))) := rfl

theorem exec_mgetr (d : GReg) (a : MReg) (b : XReg) :
    exec (.mgetr d a b) s = command (.mgetr d a b) s [checkIndex (getX s b)] fun s =>
      setG s d (getM s a)[rowIndex (getX s b)] := rfl

theorem exec_mputr (d : MReg) (a : XReg) (b : GReg) :
    exec (.mputr d a b) s = command (.mputr d a b) s [checkIndex (getX s a)] fun s =>
      setM s d ((getM s d).set (rowIndex (getX s a)) (getG s b)) := rfl

end Arms

/-! ### What the commands leave -/

/-- Settles O32: three commands without checks. -/
theorem matrixZeroIdentCopyEntries : Obligations.MatrixZeroIdentCopyEntries := by
  intro s d a
  exact ⟨setsM_of_command (exec_mzero s d) rfl entry_zeroMatrix,
    setsM_of_command (exec_mident s d) rfl entry_identMatrix,
    setsM_of_command (exec_mcopy s d a) rfl fun _ _ => rfl⟩

/-- Settles O33: rows that are swapped, read and replaced; the check of X[a] comes first. -/
theorem matrixRowCommandResults : Obligations.MatrixRowCommandResults := by
  intro s d a b g
  have hswap := exec_mswap s d a b
  have hgetr := exec_mgetr s g d a
  have hputr := exec_mputr s d a g
  refine ⟨fun i j ha hb => setsM_of_command hswap ?_ fun r c => ?_,
    fun i ha => ⟨setsG_of_command hgetr ?_ fun j _ => ?_, setsM_of_command hputr ?_ fun r c => ?_⟩,
    fun ha => ⟨faults_badIndex hswap ha, faults_badIndex hgetr ha, faults_badIndex hputr ha⟩,
    faults_badIndex_of_index hswap⟩
  · simp [checkIndex_of_eq ha, checkIndex_of_eq hb]
  · rw [rowIndex_of_eq ha, rowIndex_of_eq hb, entry_swapRows]
  · simp [checkIndex_of_eq ha]
  · simp only [rowIndex_of_eq ha]
  · simp [checkIndex_of_eq ha]
  · simp only [rowIndex_of_eq ha, entry_set]

/-- Settles O34: both sources are read before M[d] is written, so `entry_mmul` speaks of the old values. -/
theorem mmulIsTheMatrixProduct : Obligations.MmulIsTheMatrixProduct := fun s d a b =>
  setsM_of_command (exec_mmul s d a b) rfl (entry_mmul _ _)

/-- Settles O35: MSYM writes the flag of `isSymmetric_iff`. -/
theorem msymTestsSymmetry : Obligations.MsymTestsSymmetry := by
  intro s d a
  have hsym : setsX (.msym d a) s d (ofFlag (isSymmetric (getM s a))) := setsX_of_command (exec_msym s d a) rfl rfl
  refine ⟨fun h => ?_, fun ⟨i, j, hij, hne⟩ => ?_⟩
  · rwa [(isSymmetric_iff _).mpr h] at hsym
  · rwa [Bool.eq_false_iff.mpr fun h => hne ((isSymmetric_iff _).mp h i j hij)] at hsym

end Sys2Proof.Proofs
end

section
/-! ## Gauss-Jordan elimination (43_matrix.md R227, R228)

A pivot step does to the matrix and to the companion one and the same operation, `pivotRows`. Its rows are said once
(`pivotRows_getElem`); the entries of R228 item 2 follow from them. For item 1 `pivotRows` is a composition of three
`InvertibleRowOp`s: such an operation is multiplication from the left by what it makes of IDENT. -/

namespace Sys2Proof.Proofs

open Sys2Proof.Machine Sys2Proof.Claims

/-! ### The search for a pivot -/

theorem findPivot_eq_none_iff {m : Mat64} {i : Fin 64} : findPivot m i = none ↔ ∀ r, i ≤ r → entry m r i = 0 := by
  rw [findPivot, ← Fin.find?_eq_find?_finRange, Fin.find?_eq_none_iff]
  simp

theorem findPivot_eq_some_iff {m : Mat64} {i p : Fin 64} :
    findPivot m i = some p ↔ i ≤ p ∧ entry m p i ≠ 0 ∧ ∀ r, i ≤ r → r < p → entry m r i = 0 := by
  rw [findPivot, ← Fin.find?_eq_find?_finRange, Fin.find?_eq_some_iff]
  simp only [Bool.and_eq_true, decide_eq_true_eq, bne_iff_ne, Bool.and_eq_false_imp, bne_eq_false_iff_eq, and_assoc]
  exact and_congr_right fun _ => and_congr_right fun _ => forall_congr' fun _ => forall_comm

/-! ### One pivot step -/

/-- What pivot step i does to a matrix, with the multipliers read from `coeff`, the pivot row p and its factor e. -/
def pivotRows (coeff : Mat64) (i p : Fin 64) (e : Elem) (m : Mat64) : Mat64 :=
  swapRows (eliminate coeff m i p (scale m[p] e)) p i

theorem pivotStep_of_none {t : Elim} {i : Fin 64} (h : findPivot t.m i = none) : pivotStep t i = t := by
  simp only [pivotStep, h]

theorem pivotStep_of_some {t : Elim} {i p : Fin 64} (h : findPivot t.m i = some p) :
    pivotStep t i =
      { m := pivotRows t.m i p (gfInv (entry t.m p i)) t.m
        c := pivotRows t.m i p (gfInv (entry t.m p i)) t.c
        mask := t.mask ||| bit i.val } := by
  simp only [pivotStep, h, pivotRows]

theorem swapRows_getElem_swap (m : Mat64) (p q r : Fin 64) : (swapRows m p q)[r] = m[Equiv.swap p q r] := by
  simp only [swapRows_getElem, Equiv.swap_apply_def, eq_comm (a := r)]
  by_cases hp : p = r <;> by_cases hq : q = r <;> simp [hp, hq]

theorem eliminate_getElem (coeff m : Mat64) (i p : Fin 64) (pivot : Grp64) (j : Fin 64) :
    (eliminate coeff m i p pivot)[j] = if j = p then pivot else gxor m[j] (scale pivot (entry coeff j i)) :=
  matrixOf_getElem _ j

/-- Where old row j goes: p and i change places. -/
theorem pivotRows_getElem (coeff m : Mat64) (i p : Fin 64) (e : Elem) (j : Fin 64) :
    (pivotRows coeff i p e m)[Equiv.swap p i j] =
      if j = p then scale m[p] e else gxor m[j] (scale (scale m[p] e) (entry coeff j i)) := by
  rw [pivotRows, swapRows_getElem_swap, ← eliminate_getElem]
  simp only [Equiv.swap_apply_self]

theorem entry_pivotRows (coeff m : Mat64) (i p : Fin 64) (e : Elem) (j k : Fin 64) :
    entry (pivotRows coeff i p e m) (Equiv.swap p i j) k =
      if j = p then gfMul (entry m p k) e
      else entry m j k ^^^ gfMul (gfMul (entry m p k) e) (entry coeff j i) := by
  rw [entry, pivotRows_getElem]
  split
  · exact lane_scale _ _ _
  · rw [lane_gxor, lane_scale, lane_scale]; rfl

theorem pivotRows_getElem_pivot (coeff m : Mat64) (i p : Fin 64) (e : Elem) :
    (pivotRows coeff i p e m)[i] = scale m[p] e := by
  simpa using pivotRows_getElem coeff m i p e p

theorem pivotRows_getElem_other (coeff m : Mat64) (i : Fin 64) {p j : Fin 64} (e : Elem) (hj : j ≠ p) :
    (pivotRows coeff i p e m)[if j = i then p else j] = gxor m[j] (scale (scale m[p] e) (entry coeff j i)) := by
  have h := pivotRows_getElem coeff m i p e j
  simpa only [Equiv.swap_apply_def, if_neg hj] using h

/-- Settles O37: the pivot is unique, its factor is the inverse of the table, and the rows are those of `pivotRows`. -/
theorem pivotStepFollowsTheAlgorithm : Obligations.PivotStepFollowsTheAlgorithm := by
  intro t i
  refine ⟨fun h => pivotStep_of_none (findPivot_eq_none_iff.mpr h), fun p hip hne hfirst inv hinv => ?_⟩
  rw [pivotStep_of_some (findPivot_eq_some_iff.mpr ⟨hip, hne, hfirst⟩), ← eq_gfInv_of_gfMul_eq_one hne hinv]
  exact ⟨pivotRows_getElem_pivot .., pivotRows_getElem_pivot ..,
    fun j hj => ⟨pivotRows_getElem_other _ _ _ _ hj, pivotRows_getElem_other _ _ _ _ hj⟩, rfl⟩

/-! ### Unit columns -/

/-- Column k is 1 in row k and 0 elsewhere. -/
def UnitColumn (m : Mat64) (k : Fin 64) : Prop := ∀ j, entry m j k = if j = k then 1 else 0

/-- The pivot is made 1 and every other entry of its column is added to itself. -/
theorem unitColumn_pivotRows {m : Mat64} {i p : Fin 64} (hne : entry m p i ≠ 0) :
    UnitColumn (pivotRows m i p (gfInv (entry m p i)) m) i := by
  intro r
  obtain ⟨j, rfl⟩ := (Equiv.swap p i).surjective r
  have hrow : Equiv.swap p i j = i ↔ j = p := by rw [Equiv.swap_apply_eq_iff, Equiv.swap_apply_right]
  rw [entry_pivotRows, gfMul_gfInv _ hne, one_gfMul, BitVec.xor_self, if_congr hrow rfl rfl]
  rfl

/-- A unit column of an earlier row is 0 in the pivot row, so that nothing is added to it; rows p and i, which change
places, both have 0 there. -/
theorem UnitColumn.pivotRows_of_lt {m : Mat64} {k i p : Fin 64} (h : UnitColumn m k) (hki : k < i) (hip : i ≤ p)
    (e : Elem) : UnitColumn (pivotRows m i p e m) k := by
  have hkp : k ≠ p := (hki.trans_le hip).ne
  have hpivot : entry m p k = 0 := (h p).trans (if_neg hkp.symm)
  have hfix : Equiv.swap p i k = k := Equiv.swap_apply_of_ne_of_ne hkp hki.ne
  intro r
  obtain ⟨j, rfl⟩ := (Equiv.swap p i).surjective r
  have hrow : Equiv.swap p i j = k ↔ j = k := by rw [Equiv.swap_apply_eq_iff, hfix]
  rw [entry_pivotRows, hpivot, if_congr hrow rfl rfl]
  split
  next hj => rw [zero_gfMul, if_neg (hj ▸ hkp.symm)]
  next => rw [zero_gfMul, zero_gfMul]; exact BitVec.xor_zero.trans (h j)

/-- The invariant of the elimination: a column whose mask bit is set is a unit column, and stands before every column of
`l`, the columns yet to come. -/
def PivotedBefore (l : List (Fin 64)) (t : Elim) : Prop :=
  ∀ k : Fin 64, t.mask.getLsbD k = true → UnitColumn t.m k ∧ ∀ i ∈ l, k < i

theorem PivotedBefore.step {l : List (Fin 64)} {t : Elim} {i : Fin 64} (h : PivotedBefore (i :: l) t)
    (hl : ∀ j ∈ l, i < j) : PivotedBefore l (pivotStep t i) := by
  intro k hk
  cases hp : findPivot t.m i with
  | none =>
    rw [pivotStep_of_none hp] at hk ⊢
    exact (h k hk).imp_right fun hlt j hj => hlt j (List.mem_cons_of_mem _ hj)
  | some p =>
    obtain ⟨hip, hne, -⟩ := findPivot_eq_some_iff.mp hp
    rw [pivotStep_of_some hp] at hk ⊢
    by_cases hki : k = i
    · subst hki
      exact ⟨unitColumn_pivotRows hne, hl⟩
    · have hold : t.mask.getLsbD k = true := by
        rwa [BitVec.getLsbD_or, getLsbD_bit, decide_eq_false (Fin.val_ne_of_ne (Ne.symm hki)), Bool.and_false,
          Bool.or_false] at hk
      obtain ⟨hunit, hlt⟩ := h k hold
      exact ⟨hunit.pivotRows_of_lt (hlt i List.mem_cons_self) hip _, fun j hj => hlt j (List.mem_cons_of_mem _ hj)⟩

theorem PivotedBefore.steps {l : List (Fin 64)} {t : Elim} (h : PivotedBefore l t) (hl : l.Pairwise (· < ·)) :
    PivotedBefore [] (l.foldl pivotStep t) := by
  induction l generalizing t with
  | nil => exact h
  | cons i l ih =>
    obtain ⟨hi, hl⟩ := List.pairwise_cons.mp hl
    exact ih (h.step hi) hl

theorem unitColumn_gaussJordan {m c : Mat64} {i : Fin 64} (h : (gaussJordan m c).mask.getLsbD i = true) :
    UnitColumn (gaussJordan m c).m i := by
  have hstart : PivotedBefore (List.finRange 64) { m := m, c := c, mask := 0 } :=
    fun k hk => by simp at hk
  exact (hstart.steps (List.sortedLT_finRange 64).pairwise i h).1

/-- Settles O38: the mask bits set are the pivoted columns, by the invariant `PivotedBefore`. -/
theorem pivotedColumnsAreUnitColumns : Obligations.PivotedColumnsAreUnitColumns := by
  intro m c
  refine ⟨fun i => unitColumn_gaussJordan, fun hfull => mat_ext_entry fun r i => ?_⟩
  have hbit : (gaussJordan m c).mask.getLsbD i = true := by rw [hfull, getLsbD_ones i.isLt]
  rw [unitColumn_gaussJordan hbit r, entry_identMatrix]

/-! ### Invertible operations on rows -/

/-- An invertible map of matrices that commutes with multiplication from the right, as an operation on rows does. -/
structure InvertibleRowOp (f : Mat64 → Mat64) : Prop where
  bijective : Function.Bijective f
  map_mmul (a b : Mat64) : f (mmul a b) = mmul (f a) b

theorem InvertibleRowOp.id : InvertibleRowOp id := ⟨Function.bijective_id, fun _ _ => rfl⟩

theorem InvertibleRowOp.comp {f g : Mat64 → Mat64} (hf : InvertibleRowOp f) (hg : InvertibleRowOp g) :
    InvertibleRowOp (f ∘ g) where
  bijective := hf.bijective.comp hg.bijective
  map_mmul a b := by simp only [Function.comp_apply, hg.map_mmul, hf.map_mmul]

/-- The inverse of an invertible row operation is a row operation too. -/
theorem InvertibleRowOp.exists_inverse {f : Mat64 → Mat64} (hf : InvertibleRowOp f) :
    ∃ g, InvertibleRowOp g ∧ Function.LeftInverse g f ∧ Function.RightInverse g f := by
  obtain ⟨g, hleft, hright⟩ := Function.bijective_iff_has_inverse.mp hf.bijective
  refine ⟨g, ⟨Function.bijective_iff_has_inverse.mpr ⟨f, hright, hleft⟩, fun a b => hf.bijective.1 ?_⟩, hleft, hright⟩
  rw [hf.map_mmul, hright, hright]

/-- A row operation is multiplication from the left by what it makes of IDENT. -/
theorem InvertibleRowOp.eq_mmul {f : Mat64 → Mat64} (hf : InvertibleRowOp f) (m : Mat64) :
    f m = mmul (f identMatrix) m := by
  rw [← hf.map_mmul, identMatrix_mmul]

theorem invertibleRowOp_swapRows (p q : Fin 64) : InvertibleRowOp fun m => swapRows m p q where
  bijective := Function.Involutive.bijective fun m => mat_ext fun r => by
    rw [swapRows_getElem_swap, swapRows_getElem_swap]
    simp only [Equiv.swap_apply_self]
  map_mmul a b := mat_ext fun r => by
    rw [swapRows_getElem_swap, mmul_getElem, mmul_getElem, swapRows_getElem_swap]

/-- A matrix with row p multiplied by e. -/
def scaleRow (p : Fin 64) (e : Elem) (m : Mat64) : Mat64 := m.set p (scale m[p] e)

theorem scaleRow_getElem (p : Fin 64) (e : Elem) (m : Mat64) (r : Fin 64) :
    (scaleRow p e m)[r] = if r = p then scale m[p] e else m[r] :=
  set_getElem_row m p r _

theorem scaleRow_scaleRow {e f : Elem} (h : gfMul e f = 1) (p : Fin 64) (m : Mat64) :
    scaleRow p f (scaleRow p e m) = m := by
  refine mat_ext fun r => ?_
  rw [scaleRow_getElem, scaleRow_getElem, scaleRow_getElem, if_pos rfl, scale_scale, h, scale_one]
  split
  next hr => rw [hr]
  next => rfl

theorem invertibleRowOp_scaleRow {e f : Elem} (h : gfMul e f = 1) (p : Fin 64) : InvertibleRowOp (scaleRow p e) where
  bijective := Function.bijective_iff_has_inverse.mpr
    ⟨scaleRow p f, scaleRow_scaleRow h p, scaleRow_scaleRow (gfMul_comm f e ▸ h) p⟩
  map_mmul a b := mat_ext fun r => by
    simp only [scaleRow_getElem, mmul_getElem, ← scale_rowMul]
    split <;> rfl

/-- A matrix with a multiple of row p added to every other row, row p unchanged. -/
def addPivotRow (coeff : Mat64) (i p : Fin 64) (m : Mat64) : Mat64 := eliminate coeff m i p m[p]

theorem addPivotRow_getElem (coeff : Mat64) (i p : Fin 64) (m : Mat64) (r : Fin 64) :
    (addPivotRow coeff i p m)[r] = if r = p then m[p] else gxor m[r] (scale m[p] (entry coeff r i)) :=
  eliminate_getElem ..

/-- The multiples are added twice, and cancel. -/
theorem invertibleRowOp_addPivotRow (coeff : Mat64) (i p : Fin 64) : InvertibleRowOp (addPivotRow coeff i p) where
  bijective := Function.Involutive.bijective fun m => mat_ext fun r => by
    rw [addPivotRow_getElem, addPivotRow_getElem, addPivotRow_getElem, if_pos rfl]
    split
    next hr => rw [hr]
    next => exact gxor_gxor_cancel _ _
  map_mmul a b := mat_ext fun r => by
    simp only [addPivotRow_getElem, mmul_getElem, ← scale_rowMul, ← gxor_rowMul]
    split <;> rfl

/-- Normalise row p, add its multiples, swap it into row i. -/
theorem pivotRows_eq_comp (coeff : Mat64) (i p : Fin 64) (e : Elem) :
    pivotRows coeff i p e = (fun m => swapRows m p i) ∘ addPivotRow coeff i p ∘ scaleRow p e := by
  funext m
  refine congrArg (swapRows · p i) (mat_ext fun r => ?_)
  rw [eliminate_getElem, Function.comp_apply, addPivotRow_getElem, scaleRow_getElem, scaleRow_getElem, if_pos rfl]
  split <;> rfl

theorem invertibleRowOp_pivotRows (coeff : Mat64) (i p : Fin 64) {e f : Elem} (h : gfMul e f = 1) :
    InvertibleRowOp (pivotRows coeff i p e) :=
  pivotRows_eq_comp coeff i p e ▸
    (invertibleRowOp_swapRows p i).comp ((invertibleRowOp_addPivotRow coeff i p).comp (invertibleRowOp_scaleRow h p))

/-! ### The elimination as one invertible operation -/

/-- One invertible row operation takes the matrix and the companion of t to those of u. -/
def RowEquivalent (t u : Elim) : Prop := ∃ f, InvertibleRowOp f ∧ u.m = f t.m ∧ u.c = f t.c

theorem RowEquivalent.refl (t : Elim) : RowEquivalent t t := ⟨id, .id, rfl, rfl⟩

theorem RowEquivalent.trans {t u v : Elim} : RowEquivalent t u → RowEquivalent u v → RowEquivalent t v
  | ⟨f, hf, hm, hc⟩, ⟨g, hg, hm', hc'⟩ => ⟨g ∘ f, hg.comp hf, by rw [hm', hm]; rfl, by rw [hc', hc]; rfl⟩

theorem rowEquivalent_pivotStep (t : Elim) (i : Fin 64) : RowEquivalent t (pivotStep t i) := by
  cases hp : findPivot t.m i with
  | none => rw [pivotStep_of_none hp]; exact .refl t
  | some p =>
    obtain ⟨-, hne, -⟩ := findPivot_eq_some_iff.mp hp
    have hinv : gfMul (gfInv (entry t.m p i)) (entry t.m p i) = 1 := by rw [gfMul_comm, gfMul_gfInv _ hne]
    rw [pivotStep_of_some hp]
    exact ⟨_, invertibleRowOp_pivotRows t.m i p hinv, rfl, rfl⟩

theorem rowEquivalent_foldl (l : List (Fin 64)) (t : Elim) : RowEquivalent t (l.foldl pivotStep t) := by
  induction l generalizing t with
  | nil => exact .refl t
  | cons i l ih => exact (rowEquivalent_pivotStep t i).trans (ih _)

/-- Settles O39: E is what the 64 pivot steps make of IDENT, F what their inverse makes of it. -/
theorem gaussJordanIsOneInvertibleTransform : Obligations.GaussJordanIsOneInvertibleTransform := by
  intro m c
  obtain ⟨f, hf, hm, hc⟩ := rowEquivalent_foldl (List.finRange 64) { m := m, c := c, mask := 0 }
  obtain ⟨g, hg, hleft, hright⟩ := hf.exists_inverse
  refine ⟨f identMatrix, g identMatrix, ?_, ?_, hm.trans (hf.eq_mmul m), hc.trans (hf.eq_mmul c)⟩
  · rw [← hg.eq_mmul, hleft]
  · rw [← hf.eq_mmul, hright]

/-! ### MGJ -/

theorem exec_mgj (s : State) (d : XReg) (a b : MReg) :
    exec (.mgj d a b) s = command (.mgj d a b) s [checkAlias a b] fun s =>
      let r := gaussJordan (getM s a) (getM s b)
      setX (setM (setM s a r.m) b r.c) d r.mask := rfl

theorem checkAlias_self (a : MReg) : checkAlias a a = some ⟨.aliasFault, BitVec.ofNat 64 a.val⟩ := if_pos rfl

/-- Settles O36: the check, then the three writes. -/
theorem mgjWritesItsThreeResults : Obligations.MgjWritesItsThreeResults := by
  intro s d a b
  refine ⟨?_, ?_⟩
  · rintro rfl
    exact faults_of_command (code := .aliasFault) (exec_mgj s d a a) (by simp [checkAlias_self])
  · rintro hab _ rfl
    exact (exec_mgj s d a b).trans (command_of_none (by simp [checkAlias_eq_none_iff.mpr hab]))

end Sys2Proof.Proofs
end

section
/-! ## Descriptor safety: a command stores only in its block matrix (44_block.md R282)

What a completing command does to memory is said once (`CommandEffect.mem_cases`): nothing, or a store of rows inside
its destination matrix. The frame follows from what such a store leaves alone. -/

namespace Sys2Proof.Proofs

open Sys2Proof.Machine Sys2Proof.Claims

/-- A run of rows inside another. -/
theorem inRows_mono {r n r' n' a : Nat} (hlo : r' ≤ r) (hhi : r + n ≤ r' + n') (h : inRows r n a) :
    inRows r' n' a := by
  obtain ⟨hle, hlt⟩ := h
  unfold rowOffset at hle hlt
  exact ⟨by unfold rowOffset; omega, by unfold rowOffset; omega⟩

/-- Row memory lies above command and index memory (20_memory.md R72). -/
theorem rowBase_le_of_inRows {r n a : Nat} (h : inRows r n a) : Config.rowBase ≤ a :=
  Nat.le_trans (Nat.le_add_right _ _) h.1

theorem memByte_rowsStore_of_not_inRows (m : Memory) {r a : Nat} (rows : List Grp64)
    (h : ¬ inRows r rows.length a) : memByte (rowsStore m r rows) a = memByte m a := by
  refine memByte_rowsStore_ne m rows (Nat.lt_or_ge a _ |>.imp_right fun hlo => ?_)
  exact Nat.le_of_not_lt fun hhi => h ⟨hlo, hhi⟩

/-- What a command does to memory, whether it completes or faults. -/
theorem exec_mem_cases {i : Instr} {s t : State} (h : exec i s = .next t) :
    t.mem = s.mem ∨ ∃ d r rows, rowsDest i = some d ∧ blockReady s d ∧ r + rows.length ≤ rnum s d ∧
      t.mem = rowsStore s.mem (base s d + r) rows := by
  cases exec_outcome h with
  | fault => exact .inl rfl
  | complete he => exact he.mem_cases

/-- The memory frame of every command. -/
theorem exec_memByte_of_not_dest {i : Instr} {s t : State} {a : Nat} (h : exec i s = .next t)
    (ha : ∀ d, rowsDest i = some d → (getB s d).valid = true → ¬ inRows (base s d) (rnum s d) a) :
    memByte t.mem a = memByte s.mem a := by
  rcases exec_mem_cases h with hm | ⟨d, r, rows, hd, ⟨hvalid, -⟩, hlen, hm⟩
  · rw [hm]
  · rw [hm, memByte_rowsStore_of_not_inRows]
    exact fun hin => ha d hd hvalid (inRows_mono (by omega) (by omega) hin)

/-- Settles O12: the destination is one of the valid descriptors, whose rows all lie in row memory. -/
theorem commandStoresOnlyInItsBlockMatrix : Obligations.CommandStoresOnlyInItsBlockMatrix := by
  intro i s t h
  exact ⟨fun a ha => exec_memByte_of_not_dest h ha,
    fun a ha => exec_memByte_of_not_dest h fun d _ hvalid hin => ha ⟨d, hvalid, hin⟩,
    fun a ha => exec_memByte_of_not_dest h fun _ _ _ hin => Nat.not_le.mpr ha (rowBase_le_of_inRows hin)⟩

end Sys2Proof.Proofs
end

section
/-! ## Block descriptors: BCFG, BFREE and the faults of block operands (44_block.md R260 to R263)

The faults are read off the list of checks of each block command, `blockChecks`. -/

namespace Sys2Proof.Proofs

open Sys2Proof.Machine Sys2Proof.Claims

/-! ### BCFG and BFREE -/

theorem exec_bcfg (s : State) (d : BReg) (a b : XReg) :
    exec (.bcfg d a b) s = command (.bcfg d a b) s [] fun s =>
      if blockPlaceable s d (getX s a).toNat (getX s b).toNat then
        setB s d { valid := true, base := (getX s a).extractLsb' 0 32, rnum := (getX s b).extractLsb' 0 31 }
      else setAllocfail (setB s d emptyDesc) := rfl

theorem exec_bfree (s : State) (d : BReg) :
    exec (.bfree d) s = command (.bfree d) s [] fun s => setB s d emptyDesc := rfl

theorem exec_bcfg_of_placeable {s : State} {d : BReg} {a b : XReg}
    (h : blockPlaceable s d (getX s a).toNat (getX s b).toNat = true) :
    exec (.bcfg d a b) s = .next { advanced s with
      b := s.b.set d { valid := true, base := (getX s a).extractLsb' 0 32, rnum := (getX s b).extractLsb' 0 31 } } := by
  rw [exec_bcfg, command_of_none rfl, if_pos h]
  rfl

theorem exec_bcfg_of_not_placeable {s : State} {d : BReg} {a b : XReg}
    (h : ¬ blockPlaceable s d (getX s a).toNat (getX s b).toNat = true) :
    exec (.bcfg d a b) s = .next { advanced s with
      b := s.b.set d emptyDesc, status := { s.status with allocfail := true } } := by
  rw [exec_bcfg, command_of_none rfl, if_neg h]
  rfl

/-- Settles O40: the condition is `blockPlaceable`, and a range inside ROWMEM fits the descriptor's fields. -/
theorem bcfgPlacesOrFails : Obligations.BcfgPlacesOrFails := by
  intro s d a b ok hok
  have hplace : ok ↔ blockPlaceable s d (getX s a).toNat (getX s b).toNat = true := hok.trans blockPlaceable_iff.symm
  refine ⟨fun h => ?_, fun h => exec_bcfg_of_not_placeable (mt hplace.mpr h)⟩
  obtain ⟨-, hin, -⟩ := hok.mp h
  obtain ⟨hbase, hn⟩ := bcfg_desc_toNat hin
  exact ⟨_, rfl, hbase, hn, exec_bcfg_of_placeable (hplace.mp h)⟩

/-- Settles O41: BFREE has no checks. -/
theorem bfreeEmptiesTheDescriptor : Obligations.BfreeEmptiesTheDescriptor :=
  fun s d => (exec_bfree s d).trans (command_of_none rfl)

/-! ### Faults of block operands -/

/-- The commands of a list fault alike where their checks do. -/
theorem forall_faults {l : List Instr} {s : State} {tr : Trap}
    (h : ∀ i ∈ l, namedBlocks i ≠ [] ∧ firstTrap (blockChecks s i) = some tr) :
    ∀ i ∈ l, faults i s (faultCodeByte tr.code) tr.info := by
  intro i hi
  obtain ⟨hblocks, htrap⟩ := h i hi
  exact exec_faults hblocks htrap

theorem checkDims_of_ne {s : State} {d a : BReg} (h : (getB s d).rnum ≠ (getB s a).rnum) :
    checkDims s d a =
      some ⟨.dimMismatch, ((getB s d).rnum.setWidth 64 <<< 32) ||| (getB s a).rnum.setWidth 64⟩ := if_neg h

/-- Settles O51: the descriptor of field d is checked first, that of field a next. -/
theorem invalidDescriptorFaults : Obligations.InvalidDescriptorFaults := by
  intro s k a m x y z hk
  have hbad := checkDesc_of_invalid hk
  refine ⟨forall_faults (tr := ⟨.badDesc, BitVec.ofNat 64 k.val⟩) ?_,
    fun ha => forall_faults (tr := ⟨.badDesc, BitVec.ofNat 64 k.val⟩) ?_⟩
  · simp [namedBlocks, blockChecks, hbad]
  · simp [namedBlocks, blockChecks, hbad, checkDesc_eq_none_iff.mpr ha]

/-- Settles O52: both descriptors pass, so the check of the row counts speaks. -/
theorem differentRowCountsFault : Obligations.DifferentRowCountsFault := by
  intro s d a m x hd ha hne
  refine forall_faults (tr := ⟨.dimMismatch, _⟩) ?_
  simp [namedBlocks, blockChecks, checkDesc_eq_none_iff.mpr hd, checkDesc_eq_none_iff.mpr ha, checkDims_of_ne hne]

end Sys2Proof.Proofs
end

section
/-! ## Rows and elements of block matrices (44_block.md R264 to R270, R276 to R280)

A command that stores rows is its list of checks and one list of rows; what the rows read as afterwards, and that no
other byte changes, is said once (`setsRows_of_exec`). The commands over two block matrices differ only in the function
that makes a row of the result from the two old rows (`setsRows_of_zipWith`). -/

namespace Sys2Proof.Proofs

open Sys2Proof.Machine Sys2Proof.Claims

/-! ### Ready operands pass their checks -/

section Ready

variable {s : State} {d a : BReg}

theorem checkDesc_of_ready (h : blockReady s d) : checkDesc s d = none := by
  obtain ⟨hvalid, -⟩ := h
  exact checkDesc_eq_none_iff.mpr hvalid

theorem descFits_of_ready (h : blockReady s d) : ∀ k ∈ [d], descFits s k = true := by
  obtain ⟨-, hfits⟩ := h
  simpa [descFits_iff] using hfits

theorem firstTrap_of_pairReady (h : pairReady s d a) :
    firstTrap [checkDesc s d, checkDesc s a, checkDims s d a] = none := by
  obtain ⟨hd, ha, hdims, -⟩ := h
  simp [checkDesc_of_ready hd, checkDesc_of_ready ha, checkDims_eq_none_iff.mpr hdims]

theorem descFits_of_pairReady (h : pairReady s d a) : ∀ k ∈ [d, a], descFits s k = true := by
  obtain ⟨⟨-, hd⟩, ⟨-, ha⟩, -, -⟩ := h
  simp [descFits_iff, hd, ha]

theorem rnum_eq_of_pairReady (h : pairReady s d a) : rnum s d = rnum s a := by
  obtain ⟨-, -, hdims, -⟩ := h
  exact congrArg BitVec.toNat hdims

end Ready

/-! ### The rows of a block matrix -/

theorem blockRows_eq_map (s : State) (i : BReg) : blockRows s i = (List.range (rnum s i)).map (blockRow s i) := rfl

theorem blockRows_getElem? {s : State} {i : BReg} {k : Nat} (hk : k < rnum s i) :
    (blockRows s i)[k]? = some (blockRow s i k) := by
  simp [blockRows_eq_map, hk]

theorem zipWith_blockRows_getElem? {s : State} {d a : BReg} (f : Grp64 → Grp64 → Grp64) (h : rnum s d = rnum s a)
    {k : Nat} (hk : k < rnum s d) :
    (List.zipWith f (blockRows s d) (blockRows s a))[k]? = some (f (blockRow s d k) (blockRow s a k)) := by
  simp [List.getElem?_zipWith, blockRows_getElem? hk, blockRows_getElem? (h ▸ hk)]

/-! ### What a command that stores rows leaves, in the terms of the claims -/

section RowCommand

variable {i : Instr} {s : State} {d a : BReg} {r n : Nat} {f : Nat → Nat → Elem}

/-- The n stored rows read back, and no byte outside them changes. -/
theorem setsRows_of_exec {rows : List Grp64} (hi : exec i s = .next { advanced s with mem := rowsStore s.mem r rows })
    (hwf : memWf s.mem = true) (hl : rows.length = n)
    (hv : ∀ k < n, ∃ v, rows[k]? = some v ∧ ∀ j < 64, lane v j = f k j) : setsRows i s r n f := by
  refine ⟨_, hi, fun k hk j hj => ?_, fun b hb => memByte_rowsStore_of_not_inRows _ rows (hl ▸ hb)⟩
  obtain ⟨v, hrow, hlanes⟩ := hv k hk
  obtain ⟨hlt, rfl⟩ := List.getElem?_eq_some_iff.mp hrow
  rw [rowLoad_rowsStore hwf r rows k hlt, hlanes j hj]

theorem rowsStore_singleton (m : Memory) (r : Nat) (v : Grp64) : rowsStore m r [v] = rowStore m r v := by
  simp only [rowsStore]

theorem retire_setBlockRow (s : State) (d : BReg) (k : Nat) (v : Grp64) :
    retire (setBlockRow s d k v) = { advanced s with mem := rowsStore s.mem (base s d + k) [v] } := by
  simp only [retire, setBlockRow, advanced, base, rowsStore_singleton]

/-- A command that stores one row of its destination. -/
theorem setsRows_of_setBlockRow {k : Nat} {v : Grp64} (hi : exec i s = .next (retire (setBlockRow s d k v)))
    (hwf : memWf s.mem = true) (hv : ∀ j < 64, lane v j = f 0 j) : setsRows i s (base s d + k) 1 f := by
  rw [retire_setBlockRow] at hi
  refine setsRows_of_exec hi hwf rfl fun n hn => ?_
  obtain rfl : n = 0 := by omega
  exact ⟨v, rfl, hv⟩

/-- A command over two block matrices that makes each row of B[d] from the two old rows. -/
theorem setsRows_of_zipWith {g : State → Grp64 → Grp64 → Grp64}
    (hi : exec i s = blockCommand i s [d, a] [checkDesc s d, checkDesc s a, checkDims s d a] fun s =>
      setBlockRows s d (List.zipWith (g s) (blockRows s d) (blockRows s a)))
    (h : pairReady s d a) (hv : ∀ r, ∀ j < 64, lane (g s (blockRow s d r) (blockRow s a r)) j = f r j) :
    setsRows i s (base s d) (rnum s d) f := by
  have hexec := hi.trans (blockCommand_of_none (firstTrap_of_pairReady h) (descFits_of_pairReady h))
  have hrnum := rnum_eq_of_pairReady h
  obtain ⟨-, -, -, hwf⟩ := h
  exact setsRows_of_exec hexec hwf (zipWith_blockRows_length _ hrnum) fun k hk =>
    ⟨_, zipWith_blockRows_getElem? _ hrnum hk, hv k⟩

end RowCommand

/-! ### The commands: their checks and their effect -/

section Arms

variable (s : State)

theorem exec_bgetr (d : GReg) (a : BReg) (b : XReg) :
    exec (.bgetr d a b) s = blockCommand (.bgetr d a b) s [a] [checkDesc s a, checkRow s a (getX s b)] fun s =>
      setG s d (blockRow s a (getX s b).toNat) := rfl

theorem exec_bputr (d : BReg) (a : XReg) (b : GReg) :
    exec (.bputr d a b) s = blockCommand (.bputr d a b) s [d] [checkDesc s d, checkRow s d (getX s a)] fun s =>
      setBlockRow s d (getX s a).toNat (getG s b) := rfl

theorem exec_bat (d : XReg) (a : BReg) (b c : XReg) :
    exec (.bat d a b c) s =
      blockCommand (.bat d a b c) s [a] [checkDesc s a, checkRow s a (getX s b), checkIndex (getX s c)] fun s =>
        setX s d (ofElem (lane (blockRow s a (getX s b).toNat) (getX s c).toNat)) := rfl

theorem exec_bsetat (d : BReg) (a b c : XReg) :
    exec (.bsetat d a b c) s =
      blockCommand (.bsetat d a b c) s [d]
        [checkDesc s d, checkRow s d (getX s a), checkIndex (getX s b), checkElem (getX s c)] fun s =>
        setBlockRow s d (getX s a).toNat
          (setLane (blockRow s d (getX s a).toNat) (getX s b).toNat (elemOf (getX s c))) := rfl

theorem exec_bzero (d : BReg) :
    exec (.bzero d) s = blockCommand (.bzero d) s [d] [checkDesc s d] fun s =>
      setBlockRows s d (List.replicate (rnum s d) zeroGroup) := rfl

theorem exec_bcopy (d a : BReg) :
    exec (.bcopy d a) s = blockCommand (.bcopy d a) s [d, a] [checkDesc s d, checkDesc s a, checkDims s d a] fun s =>
      setBlockRows s d (blockRows s a) := rfl

theorem exec_bfma (d a : BReg) (b : MReg) :
    exec (.bfma d a b) s =
      blockCommand (.bfma d a b) s [d, a] [checkDesc s d, checkDesc s a, checkDims s d a] fun s =>
        setBlockRows s d (List.zipWith (fun x y => gxor x (rowMul y (getM s b))) (blockRows s d) (blockRows s a)) :=
  rfl

theorem exec_bfmad (d a : BReg) (b : MReg) (c : XReg) :
    exec (.bfmad d a b c) s =
      blockCommand (.bfmad d a b c) s [d, a] [checkDesc s d, checkDesc s a, checkDims s d a] fun s =>
        setBlockRows s d (List.zipWith (fun x y => gxor x (gmask (rowMul y (getM s b)) (getX s c)))
          (blockRows s d) (blockRows s a)) := rfl

theorem exec_bdfma (d a : BReg) (b : MReg) (c : XReg) :
    exec (.bdfma d a b c) s =
      blockCommand (.bdfma d a b c) s [d, a] [checkDesc s d, checkDesc s a, checkDims s d a] fun s =>
        setBlockRows s d (List.zipWith (fun x y => gxor (gmask x (getX s c)) (rowMul y (getM s b)))
          (blockRows s d) (blockRows s a)) := rfl

theorem exec_bmix (d a : BReg) (b : XReg) :
    exec (.bmix d a b) s =
      blockCommand (.bmix d a b) s [d, a] [checkDesc s d, checkDesc s a, checkDims s d a] fun s =>
        setBlockRows s d (List.zipWith (fun x y => gmix x y (getX s b)) (blockRows s d) (blockRows s a)) := rfl

theorem exec_badd (d a : BReg) :
    exec (.badd d a) s = blockCommand (.badd d a) s [d, a] [checkDesc s d, checkDesc s a, checkDims s d a] fun s =>
      setBlockRows s d (List.zipWith gxor (blockRows s d) (blockRows s a)) := rfl

end Arms

/-! ### One row and one element -/

section RowOperand

variable {i : Instr} {s : State} {d : BReg} {v : Word} {checks : List (Option Trap)}

theorem checkRow_of_le (h : rnum s d ≤ v.toNat) : checkRow s d v = some ⟨.badRow, v⟩ := if_neg (Nat.not_lt.mpr h)

/-- The descriptor is checked before everything else (44_block.md R262). -/
theorem faults_badDesc (hi : namedBlocks i ≠ []) (hc : blockChecks s i = checkDesc s d :: checks)
    (hd : (getB s d).valid = false) : faults i s 0x03 (BitVec.ofNat 64 d.val) :=
  exec_faults (tr := ⟨.badDesc, BitVec.ofNat 64 d.val⟩) hi (by rw [hc, checkDesc_of_invalid hd]; rfl)

/-- The row is checked next (44_block.md R262). -/
theorem faults_badRow (hi : namedBlocks i ≠ []) (hc : blockChecks s i = checkDesc s d :: checkRow s d v :: checks)
    (hd : (getB s d).valid = true) (hv : rnum s d ≤ v.toNat) : faults i s 0x07 v :=
  exec_faults (tr := ⟨.badRow, v⟩) hi (by simp [hc, checkDesc_eq_none_iff.mpr hd, checkRow_of_le hv])

/-- The column is checked after the row (44_block.md R266, R267). -/
theorem faults_badColumn {k : Word} (hi : namedBlocks i ≠ [])
    (hc : blockChecks s i = checkDesc s d :: checkRow s d v :: checkIndex k :: checks)
    (hd : (getB s d).valid = true) (hv : v.toNat < rnum s d) (hk : 63 < k.toNat) : faults i s 0x06 k :=
  exec_faults (tr := ⟨.badIndex, k⟩) hi
    (by simp [hc, checkDesc_eq_none_iff.mpr hd, checkRow_eq_none_iff.mpr hv, checkIndex_of_gt hk])

end RowOperand

/-- Settles O42: the row is read, or stored, where its two checks pass. -/
theorem blockRowCommandResults : Obligations.BlockRowCommandResults := by
  intro s d a g
  refine ⟨fun hd hrow hwf => ?_, fun hd => ⟨faults_badDesc nofun rfl hd, faults_badDesc nofun rfl hd⟩,
    fun hd hrow => ⟨faults_badRow nofun rfl hd hrow, faults_badRow nofun rfl hd hrow⟩⟩
  have hchecks : firstTrap [checkDesc s d, checkRow s d (getX s a)] = none := by
    simp [checkDesc_of_ready hd, checkRow_eq_none_iff.mpr hrow]
  have hget := (exec_bgetr s g d a).trans (blockCommand_of_none hchecks (descFits_of_ready hd))
  have hput := (exec_bputr s d a g).trans (blockCommand_of_none hchecks (descFits_of_ready hd))
  exact ⟨⟨_, hget, fun _ _ => rfl⟩, setsRows_of_setBlockRow hput hwf fun _ _ => rfl⟩

/-- Settles O43: as for rows, with the column checked after the row and the element last. -/
theorem blockElementCommandResults : Obligations.BlockElementCommandResults := by
  intro s e d a b c
  refine ⟨fun hd hrow hcol => ?_, fun hd => ⟨faults_badDesc nofun rfl hd, faults_badDesc nofun rfl hd⟩,
    fun hd hrow => ⟨faults_badRow nofun rfl hd hrow, faults_badRow nofun rfl hd hrow⟩,
    fun hd hrow hcol => ⟨faults_badColumn nofun rfl hd hrow hcol, faults_badColumn nofun rfl hd hrow hcol⟩⟩
  have hdesc := checkDesc_of_ready hd
  have hcheckRow := checkRow_eq_none_iff.mpr hrow
  have hcheckCol := checkIndex_eq_none_iff.mpr hcol
  have hfits := descFits_of_ready hd
  refine ⟨?_, fun helem hwf => ?_, fun helem => ?_⟩
  · exact (exec_bat s e d a b).trans (blockCommand_of_none (by simp [hdesc, hcheckRow, hcheckCol]) hfits)
  · have hchecks : firstTrap [checkDesc s d, checkRow s d (getX s a), checkIndex (getX s b), checkElem (getX s c)] =
        none := by simp [hdesc, hcheckRow, hcheckCol, checkElem_eq_none_iff.mpr helem]
    have hset := (exec_bsetat s d a b c).trans (blockCommand_of_none hchecks hfits)
    refine setsRows_of_setBlockRow hset hwf fun j hj => ?_
    rw [lane_setLane_index _ _ _ hj, elemOf_eq_setWidth]
    rfl
  · exact exec_faults (tr := ⟨.badElem, getX s c⟩) nofun
      (by simp [blockChecks, hdesc, hcheckRow, hcheckCol, checkElem_of_gt helem])

/-! ### Every row -/

/-- Settles O44: BZERO stores as many zero rows as B[d] has, BCOPY the rows of B[a], of which there are as many. -/
theorem blockZeroAndCopyRows : Obligations.BlockZeroAndCopyRows := by
  intro s d a
  refine ⟨fun hd hwf => ?_, fun h => ?_⟩
  · have hexec := (exec_bzero s d).trans
      (blockCommand_of_none (by simp [checkDesc_of_ready hd]) (descFits_of_ready hd))
    exact setsRows_of_exec hexec hwf List.length_replicate fun k hk =>
      ⟨zeroGroup, by simp [hk], fun j _ => lane_zeroGroup j⟩
  · have hexec := (exec_bcopy s d a).trans (blockCommand_of_none (firstTrap_of_pairReady h) (descFits_of_pairReady h))
    have hrnum := rnum_eq_of_pairReady h
    obtain ⟨-, -, -, hwf⟩ := h
    exact setsRows_of_exec hexec hwf ((blockRows_length s a).trans hrnum.symm) fun k hk =>
      ⟨_, blockRows_getElem? (hrnum ▸ hk), fun _ _ => rfl⟩

@[simp] theorem zero_gfAdd (a : Elem) : gfAdd 0 a = a := BitVec.zero_xor

/-- An element of a row times M[b] (44_block.md section 5, 43_matrix.md R220). -/
theorem lane_rowMul_blockRow (s : State) (a : BReg) (b : MReg) (r : Nat) {j : Nat} (hj : j < 64) :
    lane (rowMul (blockRow s a r) (getM s b)) j = prodElt s a b r j :=
  lane_rowMul (blockRow s a r) (getM s b) ⟨j, hj⟩

/-- Settles O49: the products are those of the old rows, since all rows are made before one is stored. -/
theorem blockMultiplyAddRows : Obligations.BlockMultiplyAddRows := by
  intro s d a b c h
  refine ⟨setsRows_of_zipWith (exec_bfma s d a b) h fun r j hj => ?_,
    setsRows_of_zipWith (exec_bfmad s d a b c) h fun r j hj => ?_,
    setsRows_of_zipWith (exec_bdfma s d a b c) h fun r j hj => ?_⟩
  · rw [lane_gxor_eq_gfAdd, lane_rowMul_blockRow s a b r hj, elt]
  · rw [lane_gxor_eq_gfAdd, lane_gmask, lane_rowMul_blockRow s a b r hj]
    split
    · rfl
    · exact gfAdd_zero _
  · rw [lane_gxor_eq_gfAdd, lane_gmask, lane_rowMul_blockRow s a b r hj]
    split
    · rfl
    · exact zero_gfAdd _

/-- Settles O50: a blend and a sum of the two old rows. -/
theorem blockMixAndAddRows : Obligations.BlockMixAndAddRows := by
  intro s d a b h
  exact ⟨setsRows_of_zipWith (exec_bmix s d a b) h fun _ _ hj => lane_gmix _ _ _ hj,
    setsRows_of_zipWith (exec_badd s d a) h fun _ j _ => lane_gxor_eq_gfAdd _ _ j⟩

end Sys2Proof.Proofs
end

section
/-! ## Reductions over the rows of a block matrix (44_block.md R271 to R275, R282)

The Gramian and the column masks are folds over a list of rows, and each is said entry by entry, or bit by bit, for
every list (`entry_gramian`, `getLsbD_zeroColumns`). -/

namespace Sys2Proof.Proofs

open Sys2Proof.Machine Sys2Proof.Claims

/-! ### The Gramian -/

/-- An entry of the Gramian sums the products of two columns (44_block.md R271). -/
theorem entry_gramian (rows : List Grp64) (i j : Fin 64) :
    entry (gramian rows) i j = xorAll (rows.map fun v => gfMul (lane v i) (lane v j)) := by
  have hstep (out : Mat64) (v : Grp64) :
      entry out i j ^^^ gfMul (lane v i) (lane v j) =
        entry (matrixOf fun i => gxor out[i] (scale v (lane v i.val))) i j := by
    rw [entry, entry, matrixOf_getElem, lane_gxor, lane_scale, gfMul_comm]
  unfold gramian xorAll
  rw [List.foldl_map, ← List.foldl_hom (entry · i j) (g₂ := fun acc v => acc ^^^ gfMul (lane v i) (lane v j)) hstep,
    entry_zeroMatrix]

/-- The two columns of an entry commute (44_block.md R282). -/
theorem entry_gramian_symm (rows : List Grp64) (i j : Fin 64) :
    entry (gramian rows) i j = entry (gramian rows) j i := by
  simp only [entry_gramian, gfMul_comm]

theorem exec_bgram (s : State) (d : MReg) (a : BReg) :
    exec (.bgram d a) s = blockCommand (.bgram d a) s [a] [checkDesc s a] fun s =>
      setM s d (gramian (blockRows s a)) := rfl

theorem exec_bgram_of_ready {s : State} {a : BReg} (d : MReg) (h : blockReady s a) :
    exec (.bgram d a) s = .next (retire (setM s d (gramian (blockRows s a)))) :=
  (exec_bgram s d a).trans (blockCommand_of_none (by simp [checkDesc_of_ready h]) (descFits_of_ready h))

/-- Settles O45: the rows of the block matrix are those `entry_gramian` sums over. -/
theorem bgramIsTheGramian : Obligations.BgramIsTheGramian := by
  intro s d a h
  refine ⟨_, exec_bgram_of_ready d h, fun i j => ?_⟩
  rw [entry_gramian, blockRows_eq_map, List.map_map]
  rfl

/-- Settles O46: BGRAM leaves a Gramian in M[d], whatever the rows, and MSYM answers 1 of a symmetric matrix. -/
theorem gramianIsSymmetric : Obligations.GramianIsSymmetric := by
  intro s t d a x h ht
  obtain rfl : retire (setM s d (gramian (blockRows s a))) = t :=
    Host.Outcome.next.inj ((exec_bgram_of_ready d h).symm.trans ht)
  refine (msymTestsSymmetry _ x d).1 fun i j _ => ?_
  rw [getM_retire, getM_setM_self]
  exact entry_gramian_symm _ i j

/-! ### The zero columns -/

theorem getLsbD_foldl_zpos (rows : List Grp64) (z : Word) {j : Nat} (hj : j < 64) :
    (rows.foldl (fun z v => z &&& zpos v) z).getLsbD j = true ↔ z.getLsbD j = true ∧ ∀ v ∈ rows, lane v j = 0 := by
  induction rows generalizing z with
  | nil => simp
  | cons v rows ih =>
    rw [List.foldl_cons, ih, BitVec.getLsbD_and, Bool.and_eq_true, getLsbD_zpos v hj, and_assoc, List.forall_mem_cons]

/-- A bit of the mask is set where every row is 0 in its column (44_block.md R272, R275). -/
theorem getLsbD_zeroColumns (rows : List Grp64) {j : Nat} (hj : j < 64) :
    (zeroColumns rows).getLsbD j = true ↔ ∀ v ∈ rows, lane v j = 0 := by
  simp [zeroColumns, getLsbD_foldl_zpos rows _ hj, getLsbD_ones hj]

theorem getLsbD_zeroColumns_blockRows (s : State) (a : BReg) {j : Nat} (hj : j < 64) :
    (zeroColumns (blockRows s a)).getLsbD j = true ↔ ∀ r < rnum s a, elt s a r j = 0 := by
  simp [getLsbD_zeroColumns _ hj, blockRows_eq_map, elt]

theorem exec_bzcm (s : State) (d : XReg) (a : BReg) :
    exec (.bzcm d a) s = blockCommand (.bzcm d a) s [a] [checkDesc s a] fun s =>
      setX s d (zeroColumns (blockRows s a)) := rfl

theorem exec_bnzcm (s : State) (d : XReg) (a : BReg) :
    exec (.bnzcm d a) s = blockCommand (.bnzcm d a) s [a] [checkDesc s a] fun s =>
      setX s d (~~~(zeroColumns (blockRows s a))) := rfl

theorem exec_bzcms (s : State) (d : XReg) (a : BReg) (b c : XReg) :
    exec (.bzcms d a b c) s =
      blockCommand (.bzcms d a b c) s [a] [checkDesc s a, checkList s a (getX s b) (getX s c)] fun s =>
        setX s d (zeroColumns ((idxEntries s (getX s b) (getX s c)).map fun e => blockRow s a e.toNat)) := rfl

/-- A command over one ready block matrix that writes a mask to X[d]. -/
theorem setsXBits_of_blockCommand {i : Instr} {s : State} {d : XReg} {a : BReg} {v : State → Word}
    {checks : List (Option Trap)} {P : Nat → Prop}
    (hi : exec i s = blockCommand i s [a] checks fun s => setX s d (v s)) (ha : blockReady s a)
    (hc : firstTrap checks = none) (hv : ∀ j < 64, ((v s).getLsbD j = true ↔ P j)) : setsXBits i s d P :=
  ⟨v s, hi.trans (blockCommand_of_none hc (descFits_of_ready ha)), hv⟩

/-- Settles O47: the mask of the zero columns, and its complement. -/
theorem blockColumnMasks : Obligations.BlockColumnMasks := by
  intro s d a h
  have hchecks : firstTrap [checkDesc s a] = none := by simp [checkDesc_of_ready h]
  refine ⟨setsXBits_of_blockCommand (exec_bzcm s d a) h hchecks fun j hj => getLsbD_zeroColumns_blockRows s a hj,
    setsXBits_of_blockCommand (exec_bnzcm s d a) h hchecks fun j hj => ?_⟩
  have hzero := (getLsbD_zeroColumns_blockRows s a hj).not
  simpa [hj] using hzero

/-! ### The rows a list names -/

/-- The first check that fails, with the ones before it passing, gives the fault (60_exceptions.md R341). -/
theorem firstTrap_eq_some_of_getElem? {l : List (Option Trap)} {tr : Trap} {k : Nat} (hk : l[k]? = some (some tr))
    (hl : ∀ n < k, l[n]? = some none) : firstTrap l = some tr := by
  induction l generalizing k with
  | nil => simp at hk
  | cons c l ih =>
    cases k with
    | zero =>
      obtain rfl : c = some tr := by simpa using hk
      rfl
    | succ k =>
      obtain rfl : c = none := by simpa using hl 0 (Nat.succ_pos k)
      exact ih (by simpa using hk) fun n hn => by simpa using hl (n + 1) (Nat.succ_lt_succ hn)

section IndexList

variable {s : State} {a : BReg} {start count : Word}

theorem toNat_idxEntry (w : Word32) : (w.setWidth 64).toNat = w.toNat :=
  BitVec.toNat_setWidth_of_le (by decide)

theorem checkWindow_of_gt (h : s.params.idxEntries < start.toNat + count.toNat) :
    checkWindow s start count = some ⟨.badIdxwin, start⟩ := if_neg (Nat.not_le.mpr h)

theorem checkList_of_gt (h : s.params.idxEntries < start.toNat + count.toNat) :
    checkList s a start count = some ⟨.badIdxwin, start⟩ := by
  rw [checkList, checkWindow_of_gt h]

/-- The check of entry k. -/
theorem checkRow_idxEntries_getElem? {k : Nat} (hk : k < count.toNat) :
    ((idxEntries s start count).map (checkRow s a))[k]? =
      some (checkRow s a ((idxRead s (start.toNat + k)).setWidth 64)) := by
  simp [idxEntries, hk]

/-- The first entry that is no row is reported (44_block.md R275). -/
theorem checkList_of_first_bad {k : Nat} (hw : start.toNat + count.toNat ≤ s.params.idxEntries) (hk : k < count.toNat)
    (hbad : rnum s a ≤ (idxRead s (start.toNat + k)).toNat)
    (hgood : ∀ n < k, (idxRead s (start.toNat + n)).toNat < rnum s a) :
    checkList s a start count = some ⟨.badRow, (idxRead s (start.toNat + k)).setWidth 64⟩ := by
  rw [checkList, checkWindow_eq_none_iff.mpr hw]
  refine firstTrap_eq_some_of_getElem? (k := k) ?_ fun n hn => ?_
  · rw [checkRow_idxEntries_getElem? hk, checkRow_of_le (by rwa [toNat_idxEntry])]
  · rw [checkRow_idxEntries_getElem? (hn.trans hk), checkRow_eq_none_iff.mpr]
    rw [toNat_idxEntry]
    exact hgood n hn

theorem getLsbD_zeroColumns_idxEntries {j : Nat} (hj : j < 64) :
    (zeroColumns ((idxEntries s start count).map fun e => blockRow s a e.toNat)).getLsbD j = true ↔
      ∀ k < count.toNat, elt s a (idxRead s (start.toNat + k)).toNat j = 0 := by
  rw [getLsbD_zeroColumns _ hj]
  simp only [idxEntries, List.map_map, List.forall_mem_map, List.mem_range, Function.comp_apply, toNat_idxEntry, elt]

end IndexList

/-- Settles O48: the window, then the entries in list order, then the mask over the rows they name. -/
theorem bzcmsOverTheListedRows : Obligations.BzcmsOverTheListedRows := by
  intro s d a b c h
  have hdesc := checkDesc_of_ready h
  refine ⟨fun hw hrows => ?_, fun hw => ?_, fun hw k hk hbad hgood => ?_⟩
  · exact setsXBits_of_blockCommand (exec_bzcms s d a b c) h (by simp [hdesc, checkList_eq_none hw hrows])
      fun j hj => getLsbD_zeroColumns_idxEntries hj
  · exact exec_faults (tr := ⟨.badIdxwin, getX s b⟩) nofun (by simp [blockChecks, hdesc, checkList_of_gt hw])
  · exact exec_faults (tr := ⟨.badRow, (idxRead s ((getX s b).toNat + k)).setWidth 64⟩) nofun
      (by simp [blockChecks, hdesc, checkList_of_first_bad hw hk hbad hgood])

end Sys2Proof.Proofs
end

section
/-! ## The sequencer: its commands, its turns and GO (45_sequencer.md)

XLI and XINS are read bit by bit from `getLsbD_immValue`: of the placed immediate, and of the placed 0xFFFF whose
complement keeps the other bits of X[d]. A turn and a GO are the laws of `step` and of the host port at their cases. -/

namespace Sys2Proof.Proofs

open Sys2Proof.Machine Sys2Proof.Claims

/-! ### The bits of a placed immediate -/

/-- Bit j of the word is a bit of halfword h: 16h ≤ j < 16h + 16 (30_encoding.md R106). -/
def InHalfword (h : BitVec 2) (j : Nat) : Prop := 16 * h.toNat ≤ j ∧ j < 16 * h.toNat + 16

theorem getLsbD_immValue (imm16 : BitVec 16) (h : BitVec 2) {j : Nat} (hj : j < 64) :
    (immValue imm16 h).getLsbD j = true ↔ 16 * h.toNat ≤ j ∧ imm16.getLsbD (j - 16 * h.toNat) = true := by
  simp [immValue, hj]

/-- An immediate has no bits past its 16, so none past its halfword. -/
theorem inHalfword_of_getLsbD {imm16 : BitVec 16} {h : BitVec 2} {j : Nat} (hlo : 16 * h.toNat ≤ j)
    (hbit : imm16.getLsbD (j - 16 * h.toNat) = true) : InHalfword h j := by
  have hlt := BitVec.lt_of_getLsbD hbit
  exact ⟨hlo, by omega⟩

/-- The mask XINS clears with: 0xFFFF placed at halfword h has exactly the bits of that halfword. -/
theorem getLsbD_immValue_ones (h : BitVec 2) {j : Nat} (hj : j < 64) :
    (immValue 0xFFFF h).getLsbD j = true ↔ InHalfword h j := by
  rw [getLsbD_immValue _ _ hj, show (0xFFFF : BitVec 16) = BitVec.allOnes 16 from rfl, BitVec.getLsbD_allOnes,
    decide_eq_true_iff, InHalfword]
  omega

theorem getLsbD_insertImm (v : Word) (imm16 : BitVec 16) (h : BitVec 2) {j : Nat} (hj : j < 64) :
    (insertImm v imm16 h).getLsbD j = true ↔
      (v.getLsbD j = true ∧ ¬ InHalfword h j) ∨ (16 * h.toNat ≤ j ∧ imm16.getLsbD (j - 16 * h.toNat) = true) := by
  rw [← getLsbD_immValue_ones h hj, ← getLsbD_immValue imm16 h hj]
  simp [insertImm, hj]

/-! ### The commands: their effect -/

section Arms

variable (s : State)

theorem exec_nop : exec .nop s = command .nop s [] id := rfl

theorem exec_halt : exec .halt s = command .halt s [] setHalted := rfl

theorem exec_xli (d : XReg) (imm16 : BitVec 16) (h : BitVec 2) :
    exec (.xli d imm16 h) s = command (.xli d imm16 h) s [] fun s => setX s d (immValue imm16 h) := rfl

theorem exec_xins (d : XReg) (imm16 : BitVec 16) (h : BitVec 2) :
    exec (.xins d imm16 h) s = command (.xins d imm16 h) s [] fun s => setX s d (insertImm (getX s d) imm16 h) := rfl

theorem exec_xmov (d a : XReg) : exec (.xmov d a) s = command (.xmov d a) s [] fun s => setX s d (getX s a) := rfl

end Arms

/-! ### The results of the commands -/

/-- Settles O19: the bits of a placed immediate lie in its halfword, and XINS keeps the others. -/
theorem immediateBitsLandAtTheirHalfword : Obligations.ImmediateBitsLandAtTheirHalfword := by
  refine fun s d imm16 h =>
    ⟨⟨_, setsX_of_command (exec_xli s d imm16 h) firstTrap_nil rfl, fun j hj => ?_⟩,
      ⟨_, setsX_of_command (exec_xins s d imm16 h) firstTrap_nil rfl, fun j hj => ?_⟩⟩
  · rw [getLsbD_immValue _ _ hj]
    exact ⟨fun ⟨hlo, hbit⟩ => ⟨hlo, (inHalfword_of_getLsbD hlo hbit).2, hbit⟩, fun ⟨hlo, _, hbit⟩ => ⟨hlo, hbit⟩⟩
  · simp only [getLsbD_insertImm _ _ _ hj]
    split
    next hin => simp [InHalfword, hin]
    next hout =>
      have hclear : ¬ (16 * h.toNat ≤ j ∧ imm16.getLsbD (j - 16 * h.toNat) = true) := fun ⟨hlo, hbit⟩ =>
        hout (inHalfword_of_getLsbD hlo hbit)
      simp [InHalfword, hout, hclear]

/-- Settles O18: none of the three has a check, so each completes with its effect. -/
theorem nopHaltXmovResults : Obligations.NopHaltXmovResults := fun s d a =>
  ⟨(exec_nop s).trans (command_of_none firstTrap_nil), (exec_halt s).trans (command_of_none firstTrap_nil),
    setsX_of_command (exec_xmov s d a) firstTrap_nil rfl⟩

/-! ### The turns -/

/-- A turn of the sequencer on a command word runs the instruction it decodes to (45_sequencer.md R320). -/
theorem sequencerStep_of_decode_ok {s : State} {i : Instr} (hb : s.status.busy = true)
    (hc : s.cpc.toNat < s.params.cmdWords) (hd : decode (cmdRead s s.cpc.toNat) = .ok i) :
    sequencerStep s = exec i s :=
  sequencerStep_of_ok hb (fetch_eq_ok_iff.mpr ⟨hc, hd⟩)

/-- Settles O7: by whose turn it is; the sequencer's is `sequencerStep`, on the state left when a listed turn is taken
off. -/
theorem stepRunsTheDecodedInstruction : Obligations.StepRunsTheDecodedInstruction := by
  refine ⟨fun s i hin hb hc hd => ?_, fun s i rest hin hb hc hd => ?_, fun s hin hb => ?_, fun s rest hin hb => ?_,
    fun s access rest hin => step_of_host hin⟩
  · exact (step_of_nil hin).trans (sequencerStep_of_decode_ok hb hc hd)
  · exact (step_of_sequencer hin).trans (sequencerStep_of_decode_ok (s := { s with inputs := rest }) hb hc hd)
  · exact (step_of_nil hin).trans (sequencerStep_idle hb)
  · exact (step_of_sequencer hin).trans (sequencerStep_idle (s := { s with inputs := rest }) hb)

/-! ### GO -/

theorem go_of_fault {s : State} (hf : s.status.fault = true) : go s = setHerr s := by
  simp [go, hf]

theorem go_of_ready {s : State} (hb : s.status.busy = false) (hf : s.status.fault = false) : go s = setRunning s := by
  simp [go, hb, hf]

/-- While BUSY = 1 the port rejects a write of CTRL before it is a GO (20_memory.md R75). -/
theorem write_ctrl_of_busy {s : State} (hb : s.status.busy = true) (width : Nat) (v : Word) :
    hostAccess s (.write 0x010 width v) = rejected s (.write 0x010 width v) := by
  refine hostAccess_of_not_answered fun ⟨_, slot, hslot, _, hwritable⟩ => ?_
  have hlow : 0x018 ≤ 0x010 := (writableBusy_offset hslot (hwritable hb)).1
  exact absurd hlow (by decide)

/-- A write to CTRL that brings a 1 to bit 0 is GO while BUSY = 0, at both widths (10_state.md R40). -/
theorem write_ctrl_of_go {s : State} (hb : s.status.busy = false) {width : Nat} (hw : width = 4 ∨ width = 8) {v : Word}
    (hv : v.getLsbD 0 = true) : hostAccess s (.write 0x010 width v) = go s := by
  have hp : wellPlaced 0x010 width = true := wellPlaced_iff.mpr (by rcases hw with rfl | rfl <;> decide)
  have hbit : (writeBits 0x010 width v).getLsbD 0 = true :=
    (getLsbD_of_extractLsb'_eq (extractLsb'_writeBits_low hw rfl v) (by decide)).trans hv
  rw [hostAccess_write_of v hp (slotAt_control (by decide)) rfl (.inl hb), writeSlot, if_pos hbit]

/-- Settles O54: the port rejects it while BUSY = 1; else it is a GO, which FAULT decides. -/
theorem goStartsOrIsRefused : Obligations.GoStartsOrIsRefused := fun _ width v hw hv =>
  ⟨fun hb => write_ctrl_of_busy hb width v,
    fun hb hf => (write_ctrl_of_go hb hw hv).trans (go_of_fault hf),
    fun hb hf => (write_ctrl_of_go hb hw hv).trans (go_of_ready hb hf)⟩

end Sys2Proof.Proofs
end

section
/-! ## Exceptions: the overrun fault, the IRQ output and the host's return (60_exceptions.md) -/

namespace Sys2Proof.Proofs

open Sys2Proof.Machine Sys2Proof.Claims

/-! ### A fetch past command memory -/

/-- A turn of the sequencer past command memory takes fault 0x0B, with no command word (60_exceptions.md R343). -/
theorem sequencerStep_of_overrun {s : State} (hb : s.status.busy = true) (hc : s.params.cmdWords ≤ s.cpc.toNat) :
    sequencerStep s = .next (faulted s 0x0B (s.cpc.setWidth 64) 0) :=
  (sequencerStep_of_error hb (fetch_of_overrun hc)).trans (congrArg _ (raiseFault_eq_faulted s _ _))

/-- Settles O8: both turns are `sequencerStep`, a listed one on the state left when it is taken off. -/
theorem fetchPastCommandMemoryFaults : Obligations.FetchPastCommandMemoryFaults := fun s hb hc =>
  ⟨fun hin => (step_of_nil hin).trans (sequencerStep_of_overrun hb hc),
    fun rest hin => (step_of_sequencer hin).trans (sequencerStep_of_overrun (s := { s with inputs := rest }) hb hc)⟩

/-! ### The IRQ output -/

/-- What the host reads from STATUS are the four flags, each at its bit (10_state.md R41). -/
theorem getLsbD_statusWord (t : Status) :
    (statusWord t).getLsbD 1 = t.done ∧ (statusWord t).getLsbD 2 = t.fault ∧ (statusWord t).getLsbD 3 = t.allocfail ∧
      (statusWord t).getLsbD 4 = t.herr := by
  obtain ⟨busy, done, fault, allocfail, herr⟩ := t
  revert busy done fault allocfail herr
  decide

/-- What the host reads from IRQ_EN are the four enables, each at its bit (10_state.md R42). -/
theorem getLsbD_irqEnWord (e : IrqEn) :
    (irqEnWord e).getLsbD 1 = e.done ∧ (irqEnWord e).getLsbD 2 = e.fault ∧ (irqEnWord e).getLsbD 3 = e.allocfail ∧
      (irqEnWord e).getLsbD 4 = e.herr :=
  have hread := irqEnOfWord_irqEnWord e
  ⟨congrArg IrqEn.done hread, congrArg IrqEn.fault hread, congrArg IrqEn.allocfail hread, congrArg IrqEn.herr hread⟩

theorem exists_one_to_four_iff {P : Nat → Prop} : (∃ k, 1 ≤ k ∧ k ≤ 4 ∧ P k) ↔ P 1 ∨ P 2 ∨ P 3 ∨ P 4 := by
  constructor
  · rintro ⟨k, hlo, hhi, hk⟩
    interval_cases k <;> simp [hk]
  · rintro (h | h | h | h)
    exacts [⟨1, by decide, by decide, h⟩, ⟨2, by decide, by decide, h⟩, ⟨3, by decide, by decide, h⟩,
      ⟨4, by decide, by decide, h⟩]

/-- Settles O59: bit by bit, both words hold the flags and their enables that IRQ is the OR of. -/
theorem irqIsTheEnabledStatusOr : Obligations.IrqIsTheEnabledStatusOr := by
  intro s
  obtain ⟨hdone, hfault, hallocfail, hherr⟩ := getLsbD_statusWord s.status
  obtain ⟨hdoneEn, hfaultEn, hallocfailEn, hherrEn⟩ := getLsbD_irqEnWord s.irqEn
  rw [exists_one_to_four_iff]
  simp only [slotWord, BitVec.getLsbD_and, hdone, hfault, hallocfail, hherr, hdoneEn, hfaultEn, hallocfailEn, hherrEn,
    irqOutput, Bool.or_eq_true, or_assoc]

/-! ### The host's return from a fault -/

/-- A 1 written to STATUS bit 2, alone, clears FAULT alone (10_state.md R41). -/
theorem write_status_clears_fault (s : State) :
    hostAccess s (.write 0x018 8 0x4) = { s with status := { s.status with fault := false } } := by
  obtain ⟨-, hwrites, -⟩ := controlRegisterReadsAndWrites s
  obtain ⟨hstatus, -⟩ := hwrites 8 0x4 (.inr rfl)
  simpa using hstatus

/-- A CPC the idle host writes is the next command's index (10_state.md R43). -/
theorem write_cpc_of_idle {s : State} (hb : s.status.busy = false) (pc : BitVec 32) :
    hostAccess s (.write 0x028 8 (pc.setWidth 64)) = { s with cpc := pc } := by
  obtain ⟨-, hwrites, -⟩ := controlRegisterReadsAndWrites s
  obtain ⟨-, -, -, hcpc⟩ := hwrites 8 (pc.setWidth 64) (.inr rfl)
  rw [hcpc hb, BitVec.extractLsb'_setWidth_of_le (by decide), BitVec.extractLsb'_eq_self]

/-- GO starts the run of an idle unit without a fault (45_sequencer.md R321). -/
theorem write_go_of_ready {s : State} (hb : s.status.busy = false) (hf : s.status.fault = false) :
    hostAccess s (.write 0x010 8 1) = setRunning s :=
  (write_ctrl_of_go hb (.inr rfl) rfl).trans (go_of_ready hb hf)

/-- Settles O60: the three writes one by one; with FAULT cleared, GO finds the unit ready. -/
theorem hostReturnsFromAFault : Obligations.HostReturnsFromAFault := by
  refine fun s pc hb => ⟨?_, rfl⟩
  have hcpc := write_cpc_of_idle (s := { s with status := { s.status with fault := false } }) hb pc
  rw [write_status_clears_fault, hcpc]
  exact write_go_of_ready hb rfl

end Sys2Proof.Proofs
end

section
/-! ## Termination: every run ends within the bound on its steps (70_reset_and_hazards.md R387)

What one step of a run can do is said once: `Running.step_cases` ends the run, or moves CPC up by one inside command
memory. The words of command memory that are left then bound the steps. -/

namespace Sys2Proof.Proofs

open Sys2Proof.Machine Sys2Proof.Claims

/-! ### A run in progress and its end -/

/-- A run in progress with every turn the sequencer's (notes/assumptions/6.md) and the descriptor invariant of
10_state.md R36. -/
structure Running (s : State) : Prop where
  inputs : s.inputs = []
  busy : s.status.busy = true
  desc : DescInv s

/-- The run is over, by HALT or by a fault (45_sequencer.md R323, 60_exceptions.md R342). -/
def Ended (t : State) : Prop := t.status.busy = false ∧ (t.status.done = true ∨ t.status.fault = true)

/-- A run from s is over after at most n steps. -/
def EndsWithin (n : Nat) (s : State) : Prop := ∃ k t, k ≤ n ∧ runFor k s = .next t ∧ Ended t

theorem runFor_succ {s t : State} (h : step s = .next t) (k : Nat) : runFor (k + 1) s = runFor k t := by
  rw [runFor, h]

theorem Ended.endsWithin {s : State} (h : Ended s) (n : Nat) : EndsWithin n s := ⟨0, s, n.zero_le, rfl, h⟩

theorem EndsWithin.of_step {n : Nat} {s u : State} (h : EndsWithin n u) (hs : step s = .next u) :
    EndsWithin (n + 1) s := by
  obtain ⟨k, t, hk, hrun, ht⟩ := h
  exact ⟨k + 1, t, Nat.succ_le_succ hk, (runFor_succ hs k).trans hrun, ht⟩

/-! ### One step of a run -/

/-- Taking a fault ends the run (60_exceptions.md R342). -/
theorem ended_raiseFault (s : State) (tr : Trap) (insn : Word32) : Ended (raiseFault s tr insn) := ⟨rfl, .inr rfl⟩

/-- An effect ends the run where it is HALT's; every other keeps BUSY. -/
theorem CommandEffect.ended_or_busy {i : Instr} {s u : State} (h : CommandEffect i s u) :
    Ended u ∨ u.status.busy = s.status.busy := by
  rcases h.status_cases with ⟨-, hst⟩ | ⟨-, hst⟩ | ⟨-, hst⟩
  · exact .inl ⟨congrArg Status.busy hst, .inl (congrArg Status.done hst)⟩
  · exact .inr (by rw [hst])
  · exact .inr (by rw [hst])

/-- A command ends the run, or completes at the next CPC with BUSY as it was: there are no branches
(45_sequencer.md R320, R327). -/
theorem CommandOutcome.ended_or_advances {i : Instr} {s t : State} (h : CommandOutcome i s t) :
    Ended t ∨ (t.status.busy = s.status.busy ∧ t.cpc = s.cpc + 1 ∧ t.params = s.params ∧ t.inputs = s.inputs) := by
  cases h with
  | fault => exact .inl (ended_raiseFault s _ _)
  | complete he =>
    have hk := he.keepsControl
    exact he.ended_or_busy.imp id fun hb => ⟨hb, congrArg (· + 1) hk.cpc, hk.params, hk.inputs⟩

/-- An index of command memory has a next CPC: no CMD_WORDS reaches the 32 bits of CPC (00_scope.md R7). -/
theorem toNat_cpc_add_one {P : Params} {pc : BitVec 32} (h : pc.toNat < P.cmdWords) :
    (pc + 1).toNat = pc.toNat + 1 := by
  have hlegal := P.legal
  exact BitVec.toNat_add_of_lt (show pc.toNat + 1 < 2 ^ 32 by omega)

/-- Everything one step of a run can do: end it, or go on inside command memory with CPC one up. -/
theorem Running.step_cases {s : State} (h : Running s) :
    ∃ t, step s = .next t ∧
      (Ended t ∨
        (Running t ∧ t.params = s.params ∧ s.cpc.toNat < s.params.cmdWords ∧ t.cpc.toNat = s.cpc.toNat + 1)) := by
  obtain ⟨t, ht⟩ := stepAlwaysAnswersInRange s h.desc.1
  refine ⟨t, ht, ?_⟩
  have hseq : sequencerStep s = .next t := step_of_nil h.inputs ▸ ht
  cases hf : fetch s with
  | error e =>
    rw [sequencerStep_of_error h.busy hf] at hseq
    cases hseq
    exact .inl (ended_raiseFault s _ _)
  | ok i =>
    obtain ⟨hc, -⟩ := fetch_eq_ok_iff.mp hf
    have hout : CommandOutcome i s t := exec_outcome (sequencerStep_of_ok h.busy hf ▸ hseq)
    refine hout.ended_or_advances.imp id fun ⟨hb, hcpc, hp, hin⟩ => ?_
    exact ⟨⟨hin.trans h.inputs, hb.trans h.busy, hout.keeps_descInv h.desc⟩, hp, hc, hcpc ▸ toNat_cpc_add_one hc⟩

/-! ### The bound -/

/-- With at most n words of command memory left from CPC on, n + 1 steps end the run: n commands, and a fetch past the
last word. -/
theorem Running.endsWithin {n : Nat} {s : State} (h : Running s) (hn : s.params.cmdWords - s.cpc.toNat ≤ n) :
    EndsWithin (n + 1) s := by
  induction n generalizing s with
  | zero =>
    obtain ⟨t, hs, ht | ⟨-, -, hc, -⟩⟩ := h.step_cases
    · exact (ht.endsWithin 0).of_step hs
    · omega
  | succ n ih =>
    obtain ⟨t, hs, ht | ⟨hrun, hp, hc, hcpc⟩⟩ := h.step_cases
    · exact (ht.endsWithin _).of_step hs
    · exact (ih hrun (by rw [hp, hcpc]; omega)).of_step hs

/-- Settles O17: by induction on the words of command memory left from CPC on, which every step that does not end the
run makes one fewer. -/
theorem everyRunEndsWithinTheBound : Obligations.EveryRunEndsWithinTheBound :=
  fun _ hin hb hrange hdisj => Running.endsWithin ⟨hin, hb, hrange, hdisj⟩ le_rfl

end Sys2Proof.Proofs
end
